-- ==== Sys2Proof/Word.lean ====
section
/-! DEFINITION. The word types of RCODEC56 (00_scope.md R6, R9; 10_state.md R20, R23, R29). Every value is
unsigned. -/

namespace Sys2Proof

/-- One octet of the data-in port or of the record. -/
abbrev Byte := BitVec 8

/-- A command word, `CMD_W` = 32 bits (R6, R70). -/
abbrev Word := BitVec 32

/-- The contents of a field register or of RESULT, `FIELD_REG_W` = 16 bits (R6, R20, R28). -/
abbrev RegVal := BitVec 16

/-- The 56-bit record value `REC` of R23: byte 0 is bits 55:48. -/
abbrev Record := BitVec 56

/-- A luminance in nits: an exact rational (R6, D15). -/
abbrev Nits := Rat

end Sys2Proof
end

