-- ==== Sys2Proof/Syntax.lean ====
section
/-! DEFINITION. Fields (10_state.md R21), field classes (R26) and the sixteen commands (30_encoding.md R74). -/

namespace Sys2Proof

/-- The 18 fields of the Field Set by their mnemonics, in the order of R21's table. -/
inductive Field where
  | VER | DMV | BLC | YUV12 | MINLUM | GDIM | BLMIN | MAXLUM | RSVD | IFMODE
  | GXH | I12B444 | GY | I10B444 | RX | BX | RY | BY
  deriving DecidableEq, Repr

/-- The field classes of R26. -/
inductive FieldClass where
  | raw | chroma | reserved | lum | enum | bool
  deriving DecidableEq, Repr

/-- One constructor per row of the opcode table (R74). Operands are those the command word carries; the octets, label,
nits value and preset name travel on the operand ports (R35), so they are no operands here. -/
inductive Instr where
  /-- NOP, R120. -/
  | nop
  /-- DECODE, R100. -/
  | decode
  /-- HEXDEC, R102. -/
  | hexdec
  /-- ENCODE, R105. -/
  | encode
  /-- NEWFS, R121. -/
  | newfs
  /-- LDF fld, imm, R122. -/
  | ldf (f : Field) (imm : RegVal)
  /-- SETF fld, imm, R124. -/
  | setf (f : Field) (imm : RegVal)
  /-- RDF fld, R123. -/
  | rdf (f : Field)
  /-- LUMSET fld, R143. -/
  | lumset (f : Field)
  /-- LUMGET fld, R144. -/
  | lumget (f : Field)
  /-- SETL fld, R168. -/
  | setl (f : Field)
  /-- GETL fld, R169. -/
  | getl (f : Field)
  /-- ENUML fld, k, R170. -/
  | enuml (f : Field) (k : RegVal)
  /-- SETB fld, b, R171. -/
  | setb (f : Field) (b : Bool)
  /-- GETB fld, R172. -/
  | getb (f : Field)
  /-- SETP, R174. -/
  | setp
  deriving DecidableEq, Repr

end Sys2Proof
end

