-- ==== Sys2Proof/Machine/FieldTable.lean ====
section
/-! DEFINITION. The field table of 10_state.md R21 (index, width, place in the record, place in its byte), the classes of
R26, and the classes each command admits (30_encoding.md R73). -/

namespace Sys2Proof

/-- The fields in ascending index order: `for f in 0..17` of R10. -/
def Field.all : List Field :=
  [.VER, .DMV, .BLC, .YUV12, .MINLUM, .GDIM, .BLMIN, .MAXLUM, .RSVD, .IFMODE,
   .GXH, .I12B444, .GY, .I10B444, .RX, .BX, .RY, .BY]

/-- Column `f` of R21. -/
def Field.index : Field → Fin 18
  | .VER => 0 | .DMV => 1 | .BLC => 2 | .YUV12 => 3 | .MINLUM => 4 | .GDIM => 5 | .BLMIN => 6 | .MAXLUM => 7
  | .RSVD => 8 | .IFMODE => 9 | .GXH => 10 | .I12B444 => 11 | .GY => 12 | .I10B444 => 13 | .RX => 14 | .BX => 15
  | .RY => 16 | .BY => 17

/-- The field an index of the command word names: none for the reserved indices 18..31 (20_memory.md R63). -/
def Field.ofIndex? (n : Nat) : Option Field := Field.all[n]?

/-- Column `W` of R21: the declared width. -/
def Field.width : Field → Nat
  | .VER => 3 | .DMV => 3 | .BLC => 1 | .YUV12 => 1
  | .MINLUM => 5 | .GDIM => 1 | .BLMIN => 2
  | .MAXLUM => 5 | .RSVD => 1 | .IFMODE => 2
  | .GXH => 7 | .I12B444 => 1
  | .GY => 7 | .I10B444 => 1
  | .RX => 5 | .BX => 3
  | .RY => 5 | .BY => 3

/-- `LO(f)`: the second number of column `HI:LO` of R21. -/
def Field.lo : Field → Nat
  | .VER => 53 | .DMV => 50 | .BLC => 49 | .YUV12 => 48
  | .MINLUM => 43 | .GDIM => 42 | .BLMIN => 40
  | .MAXLUM => 35 | .RSVD => 34 | .IFMODE => 32
  | .GXH => 25 | .I12B444 => 24
  | .GY => 17 | .I10B444 => 16
  | .RX => 11 | .BX => 8
  | .RY => 3 | .BY => 0

/-- `HI(f)`: the first number of column `HI:LO` of R21. -/
def Field.hi : Field → Nat
  | .VER => 55 | .DMV => 52 | .BLC => 49 | .YUV12 => 48
  | .MINLUM => 47 | .GDIM => 42 | .BLMIN => 41
  | .MAXLUM => 39 | .RSVD => 34 | .IFMODE => 33
  | .GXH => 31 | .I12B444 => 24
  | .GY => 23 | .I10B444 => 16
  | .RX => 15 | .BX => 10
  | .RY => 7 | .BY => 2

/-- Column `byte` of R21. -/
def Field.byteNo : Field → Nat
  | .VER => 0 | .DMV => 0 | .BLC => 0 | .YUV12 => 0
  | .MINLUM => 1 | .GDIM => 1 | .BLMIN => 1
  | .MAXLUM => 2 | .RSVD => 2 | .IFMODE => 2
  | .GXH => 3 | .I12B444 => 3
  | .GY => 4 | .I10B444 => 4
  | .RX => 5 | .BX => 5
  | .RY => 6 | .BY => 6

/-- The lower number of column `bits in byte` of R21. -/
def Field.byteLo : Field → Nat
  | .VER => 5 | .DMV => 2 | .BLC => 1 | .YUV12 => 0
  | .MINLUM => 3 | .GDIM => 2 | .BLMIN => 0
  | .MAXLUM => 3 | .RSVD => 2 | .IFMODE => 0
  | .GXH => 1 | .I12B444 => 0
  | .GY => 1 | .I10B444 => 0
  | .RX => 3 | .BX => 0
  | .RY => 3 | .BY => 0

/-- Column `class` of R21 and R26. -/
def Field.cls : Field → FieldClass
  | .VER => .raw
  | .DMV => .enum | .BLC => .bool | .YUV12 => .bool
  | .MINLUM => .lum | .GDIM => .bool | .BLMIN => .enum
  | .MAXLUM => .lum | .RSVD => .reserved | .IFMODE => .enum
  | .GXH => .chroma | .I12B444 => .bool
  | .GY => .chroma | .I10B444 => .bool
  | .RX => .chroma | .BX => .chroma
  | .RY => .chroma | .BY => .chroma

/-- `DEFAULT_FS` (00_scope.md R6): 0 for every field. -/
def Field.default (_ : Field) : RegVal := 0

/-- LDF, SETF and RDF admit any class (R73). -/
def FieldClass.any : List FieldClass := [.raw, .chroma, .reserved, .lum, .enum, .bool]

/-- LUMSET and LUMGET admit lum (R73). -/
def FieldClass.lumOnly : List FieldClass := [.lum]

/-- SETL, GETL and ENUML admit enum or bool (R73). -/
def FieldClass.labelled : List FieldClass := [.enum, .bool]

/-- SETB and GETB admit bool (R73). -/
def FieldClass.boolOnly : List FieldClass := [.bool]

end Sys2Proof
end

