-- ==== Sys2Proof/WellFormed.lean ====
section
/-! DEFINITION. Which instructions some command word stands for: those whose field operand has a class the opcode admits
(30_encoding.md R73). Every other operand check of the encoding is in the types of `Instr`: a field is one of the 18
(f ≤ 17), an immediate has 16 bits, SETB's operand is one bit. -/

namespace Sys2Proof

/-- The field operand of an instruction with the classes it admits (R73); none where the command takes no field. -/
def Instr.operand : Instr → Option (Field × List FieldClass)
  | .nop => none
  | .decode => none
  | .hexdec => none
  | .encode => none
  | .newfs => none
  | .ldf f _ => some (f, FieldClass.any)
  | .setf f _ => some (f, FieldClass.any)
  | .rdf f => some (f, FieldClass.any)
  | .lumset f => some (f, FieldClass.lumOnly)
  | .lumget f => some (f, FieldClass.lumOnly)
  | .setl f => some (f, FieldClass.labelled)
  | .getl f => some (f, FieldClass.labelled)
  | .enuml f _ => some (f, FieldClass.labelled)
  | .setb f _ => some (f, FieldClass.boolOnly)
  | .getb f => some (f, FieldClass.boolOnly)
  | .setp => none

/-- R73: the class of the field operand is one the opcode admits. -/
def Instr.wf (i : Instr) : Bool :=
  match i.operand with
  | none => true
  | some (f, classes) => classes.contains f.cls

end Sys2Proof
end

