-- ==== Sys2Proof/Decode.lean ====
section
/-! DEFINITION. The command decoder of 30_encoding.md R71 to R77 (the opcode map as mask and match rows, R74), total over
all 2^32 words, and the encoder written from R70 and R80. -/

namespace Sys2Proof

/-- Why a word is no command (R77). All three raise `IllegalCommand(0)`; the block reports no difference. -/
inductive IllegalWord where
  /-- No row of R74 matches: a reserved opcode, or a required-zero bit that is 1 (R75). -/
  | noRow
  /-- The command uses f and f is 18..31 (R73, R63). -/
  | fieldReserved
  /-- The class of field f is not one the opcode admits (R73). -/
  | classNotAdmitted
  deriving DecidableEq, Repr

/-- `op = w[31:24]` (R71). -/
def wordOp (w : Word) : BitVec 8 := w.extractLsb' 24 8

/-- `z = w[23:21]` (R71). -/
def wordZ (w : Word) : BitVec 3 := w.extractLsb' 21 3

/-- `f = w[20:16]` (R71). -/
def wordF (w : Word) : BitVec 5 := w.extractLsb' 16 5

/-- `imm = w[15:0]` (R71). -/
def wordImm (w : Word) : BitVec 16 := w.extractLsb' 0 16

/-- What a matched row makes of the word: a command without a field operand, or one with a field of the admitted
classes, built from the field and imm. -/
inductive RowShape where
  | plain (i : Instr)
  | withField (admits : List FieldClass) (build : Field → RegVal → Instr)

/-- One row of R74's opcode map. -/
structure OpcodeRow where
  pattern : Word
  mask : Word
  shape : RowShape

/-- The opcode map, R74: columns match, mask and the operands the row uses. -/
def opcodeMap : List OpcodeRow :=
  [⟨0x00000000, 0xFFFFFFFF, .plain .nop⟩,
   ⟨0x01000000, 0xFFFFFFFF, .plain .decode⟩,
   ⟨0x02000000, 0xFFFFFFFF, .plain .hexdec⟩,
   ⟨0x03000000, 0xFFFFFFFF, .plain .encode⟩,
   ⟨0x08000000, 0xFFFFFFFF, .plain .newfs⟩,
   ⟨0x09000000, 0xFFE00000, .withField FieldClass.any fun f imm => .ldf f imm⟩,
   ⟨0x0A000000, 0xFFE00000, .withField FieldClass.any fun f imm => .setf f imm⟩,
   ⟨0x0B000000, 0xFFE0FFFF, .withField FieldClass.any fun f _ => .rdf f⟩,
   ⟨0x10000000, 0xFFE0FFFF, .withField FieldClass.lumOnly fun f _ => .lumset f⟩,
   ⟨0x11000000, 0xFFE0FFFF, .withField FieldClass.lumOnly fun f _ => .lumget f⟩,
   ⟨0x18000000, 0xFFE0FFFF, .withField FieldClass.labelled fun f _ => .setl f⟩,
   ⟨0x19000000, 0xFFE0FFFF, .withField FieldClass.labelled fun f _ => .getl f⟩,
   ⟨0x1A000000, 0xFFE00000, .withField FieldClass.labelled fun f imm => .enuml f imm⟩,
   ⟨0x1B000000, 0xFFE0FFFE, .withField FieldClass.boolOnly fun f imm => .setb f (imm.getLsbD 0)⟩,
   ⟨0x1C000000, 0xFFE0FFFF, .withField FieldClass.boolOnly fun f _ => .getb f⟩,
   ⟨0x20000000, 0xFFFFFFFF, .plain .setp⟩]

/-- "A word w matches a row iff (w & mask) == match" (R74). -/
def OpcodeRow.accepts (r : OpcodeRow) (w : Word) : Bool := w &&& r.mask == r.pattern

/-- R76: the decode algorithm. -/
def decodeCmd (w : Word) : Except IllegalWord Instr :=
  match opcodeMap.find? (fun r => r.accepts w) with
  | none => .error .noRow
  | some r =>
    match r.shape with
    | .plain i => .ok i
    | .withField admits build =>
      match Field.ofIndex? (wordF w).toNat with
      | none => .error .fieldReserved
      | some f => if admits.contains f.cls then .ok (build f (wordImm w)) else .error .classNotAdmitted

/-- The format C32 of R70: op, three zero bits, f, imm. -/
def commandWord (op : BitVec 8) (f : BitVec 5) (imm : BitVec 16) : Word := op ++ 0#3 ++ f ++ imm

/-- The 5-bit code of a field (R70). -/
def Field.code (f : Field) : BitVec 5 := BitVec.ofNat 5 f.index.val

/-- The command word of an instruction, column "word" of R80. -/
def encode : Instr → Word
  | .nop => commandWord 0x00 0 0
  | .decode => commandWord 0x01 0 0
  | .hexdec => commandWord 0x02 0 0
  | .encode => commandWord 0x03 0 0
  | .newfs => commandWord 0x08 0 0
  | .ldf f imm => commandWord 0x09 f.code imm
  | .setf f imm => commandWord 0x0A f.code imm
  | .rdf f => commandWord 0x0B f.code 0
  | .lumset f => commandWord 0x10 f.code 0
  | .lumget f => commandWord 0x11 f.code 0
  | .setl f => commandWord 0x18 f.code 0
  | .getl f => commandWord 0x19 f.code 0
  | .enuml f k => commandWord 0x1A f.code k
  | .setb f b => commandWord 0x1B f.code ((BitVec.ofBool b).setWidth 16)
  | .getb f => commandWord 0x1C f.code 0
  | .setp => commandWord 0x20 0 0

/-- The instruction the decoder reads from the table's word `w`. Every row has 32 bits, one whole word (R78); a value
that does not fit `nbits` or 32 bits is no word. -/
def decodeTableWord (nbits w : Nat) : Option Instr :=
  if w < 2 ^ nbits ∧ w < 2 ^ 32 then
    match decodeCmd (BitVec.ofNat 32 w) with
    | .ok i => some i
    | .error _ => none
  else none

end Sys2Proof
end

