-- ==== Sys2Proof/Machine/Flags.lean ====
section
/-! DEFINITION. The STATUS register of 10_state.md R32: error kinds with their codes (60_exceptions.md R200, R201), the
four flags, and the word each command writes at its end (R33). -/

namespace Sys2Proof.Machine

/-- The six error kinds of R200. -/
inductive ErrorKind where
  | invalidLength
  | invalidHexCharacter
  | fieldOverflow
  | unknownLabel
  | unknownPreset
  | illegalCommand
  deriving DecidableEq, Repr

/-- STATUS.ERR of an error kind (R201). -/
def ErrorKind.code : ErrorKind → BitVec 3
  | .invalidLength => 1
  | .invalidHexCharacter => 2
  | .fieldOverflow => 3
  | .unknownLabel => 4
  | .unknownPreset => 5
  | .illegalCommand => 6

/-- The flags a successful command writes; "all other fields 0" (R33). -/
structure Flags where
  /-- APPROX, bit 8: the last LUMSET chose an entry not equal to the requested value. -/
  approx : Bool := false
  /-- UNREC, bit 9: the last GETL found no label. -/
  unrec : Bool := false
  /-- END, bit 10: the last ENUML asked past the end. -/
  atEnd : Bool := false
  /-- UNVER, bit 11: the last SETP applied a placeholder. -/
  unver : Bool := false
  deriving DecidableEq, Repr

/-- The STATUS word with these fields; bits 15:12 are 0 (R32). -/
def statusWord (err : BitVec 3) (field : BitVec 5) (fl : Flags) : BitVec 16 :=
  0#4 ++ BitVec.ofBool fl.unver ++ BitVec.ofBool fl.atEnd ++ BitVec.ofBool fl.unrec ++ BitVec.ofBool fl.approx
    ++ field ++ err

/-- STATUS.ERR, bits 2:0. -/
def statusErr (st : BitVec 16) : BitVec 3 := st.extractLsb' 0 3

/-- STATUS.FIELD, bits 7:3. -/
def statusField (st : BitVec 16) : BitVec 5 := st.extractLsb' 3 5

/-- STATUS.APPROX, bit 8. -/
def statusApprox (st : BitVec 16) : Bool := st.getLsbD 8

/-- STATUS.UNREC, bit 9. -/
def statusUnrec (st : BitVec 16) : Bool := st.getLsbD 9

/-- STATUS.END, bit 10. -/
def statusEnd (st : BitVec 16) : Bool := st.getLsbD 10

/-- STATUS.UNVER, bit 11. -/
def statusUnver (st : BitVec 16) : Bool := st.getLsbD 11

/-- STATUS bits 15:12, reserved. -/
def statusReserved (st : BitVec 16) : BitVec 4 := st.extractLsb' 12 4

end Sys2Proof.Machine
end

