-- ==== Sys2Proof/Config.lean ====
section
/-! DEFINITION. The parameters of 00_scope.md R6. A value the spec fixes is a definition; the OPEN ones (the types Label
and PresetName, the two luminance tables, three label tables and the presets) are ONE constant without a body,
`Config.given`, that carries the spec's constraints (42_luminance.md R141; 43_flag_mappers.md R160 to R165, R173 and, by
log 5, R168) and nothing else but how one name is written (log 22): a theorem about the model holds for every choice of
them (log 4). -/

namespace Sys2Proof

/-- `DIN_MAX`: the longest octet sequence the data-in port can present (R6, R35). -/
def Config.dinMax : Nat := 255

/-- The strings `names` accepts: the form an OPEN type of R6 has here (log 3). It has decidable equality for every
`names`. -/
abbrev NamesOf (names : String → Bool) : Type := { text : String // names text = true }

/-- One entry `(label, code)` of a label table (R160) over the label type `L`. -/
structure LabelEntryIn (L : Type) where
  label : L
  code : RegVal
  deriving DecidableEq, Repr

/-- A luminance table: a function from the index 0..31 to nits (R141). -/
abbrev LumTable := Fin 32 → Nits

/-- One entry of PRESETS (R173) over the type `N` of preset names. -/
structure PresetIn (N : Type) where
  name : N
  placeholder : Bool
  GXH : RegVal
  GY : RegVal
  RX : RegVal
  BX : RegVal
  RY : RegVal
  BY : RegVal
  deriving DecidableEq, Repr

/-- R141 (b), (d), (e): strictly increasing from `lo` to `hi`, the entries not all evenly spaced. Clause (c) follows
from (b), and (a) is the type. DEDUCED (log 12): (e) is read as "some two neighbouring steps differ". -/
structure LumTableOk (lo hi : Nits) (T : LumTable) : Prop where
  increasing : ∀ i : Fin 31, T i.castSucc < T i.succ
  first : T 0 = lo
  last : T 31 = hi
  nonLinear : ∃ i j : Fin 31, T i.succ - T i.castSucc ≠ T j.succ - T j.castSucc

/-- R160 (a) to (c), for a field of width `w`. -/
structure LabelTableOk {L : Type} (w : Nat) (lt : List (LabelEntryIn L)) : Prop where
  labelsDistinct : (lt.map LabelEntryIn.label).Nodup
  codesDistinct : (lt.map LabelEntryIn.code).Nodup
  codesFit : ∀ e ∈ lt, e.code.toNat < 2 ^ w

/-- R173 (c): the six values fit their fields. -/
structure PresetFits {N : Type} (p : PresetIn N) : Prop where
  GXH : p.GXH.toNat < 128
  GY : p.GY.toNat < 128
  RX : p.RX.toNat < 32
  BX : p.BX.toNat < 8
  RY : p.RY.toNat < 32
  BY : p.BY.toNat < 8

/-- R173 (d), second half: all six values are 0. -/
def PresetIn.allZero {N : Type} (p : PresetIn N) : Prop :=
  p.GXH = 0 ∧ p.GY = 0 ∧ p.RX = 0 ∧ p.BX = 0 ∧ p.RY = 0 ∧ p.BY = 0

/-- R173 (a) to (e). -/
structure PresetsOk {N : Type} (ps : List (PresetIn N)) : Prop where
  three : ps.length = 3
  namesDistinct : (ps.map PresetIn.name).Nodup
  fit : ∀ p ∈ ps, PresetFits p
  twoPlaceholders : ps.countP PresetIn.placeholder = 2
  placeholdersZero : ∀ p ∈ ps, p.placeholder = true → p.allZero

/-- The OPEN parameters of R6. -/
structure Config.Params where
  /-- Which strings are labels: the OPEN type Label (D14). -/
  isLabel : String → Bool
  /-- Which strings are preset names: the OPEN type PresetName (D22). -/
  isPresetName : String → Bool
  minLum : LumTable
  maxLum : LumTable
  ltDmv : List (LabelEntryIn (NamesOf isLabel))
  ltBlmin : List (LabelEntryIn (NamesOf isLabel))
  ltIfmode : List (LabelEntryIn (NamesOf isLabel))
  presets : List (PresetIn (NamesOf isPresetName))

/-- What the spec requires of the OPEN parameters. DESIGN CHOICE (log 21): two label tables may share a label. R168 says
that "a label of another field's table is unknown here", but R160 gives no constraint across tables, so only the spec's
own instance, "4.x" and BLMIN, is required. -/
structure Config.ParamsOk (p : Config.Params) : Prop where
  /-- R162: "supported" is a label. -/
  supportedIsLabel : p.isLabel "supported" = true
  /-- R162: "not supported" is a label. -/
  notSupportedIsLabel : p.isLabel "not supported" = true
  /-- R163: "4.x" is a label. -/
  fourXIsLabel : p.isLabel "4.x" = true
  /-- R141 for MINLUM_TABLE. -/
  minLum : LumTableOk 0 (1048 / 1000) p.minLum
  /-- R141 for MAXLUM_TABLE. -/
  maxLum : LumTableOk 97 10000 p.maxLum
  /-- R160 for LT_DMV. -/
  dmv : LabelTableOk 3 p.ltDmv
  /-- R163: exactly 3 entries. -/
  dmvThree : p.ltDmv.length = 3
  /-- R163: one entry is ("4.x", 2). -/
  dmv4x : ⟨⟨"4.x", fourXIsLabel⟩, 2⟩ ∈ p.ltDmv
  /-- R163: ascending code order. -/
  dmvAscending : (p.ltDmv.map fun e => e.code.toNat).Pairwise (· < ·)
  /-- R160 for LT_BLMIN. -/
  blmin : LabelTableOk 2 p.ltBlmin
  /-- R164: the codes are 0, 1, 2, 3, each once, ascending. -/
  blminCodes : p.ltBlmin.map LabelEntryIn.code = [0, 1, 2, 3]
  /-- R168, corner cases: "4.x" is unknown for BLMIN. DEDUCED (log 5) as a constraint on LT_BLMIN. -/
  blminNo4x : ∀ e ∈ p.ltBlmin, e.label.val ≠ "4.x"
  /-- R160 for LT_IFMODE. -/
  ifmode : LabelTableOk 2 p.ltIfmode
  /-- R165: the codes are 0, 1, 2, 3, each once, ascending. -/
  ifmodeCodes : p.ltIfmode.map LabelEntryIn.code = [0, 1, 2, 3]
  /-- R173 for PRESETS. -/
  presets : PresetsOk p.presets
  /-- One of the preset names, registered or not, is written as the empty string: DESIGN CHOICE (log 22), no constraint
  on the type, which has a value by R173 (a). -/
  emptyIsPresetName : p.isPresetName "" = true

/-- Some parameters that meet the constraints. They show only that the constraints can be met; they are no values of
any chip, and nothing can be proved to equal them. -/
def Config.someParams : Config.Params where
  isLabel _ := true
  isPresetName _ := true
  minLum i := 1048 / 1000 * ((i.val : Rat) / 31) ^ 2
  maxLum i := 97 + 9903 * ((i.val : Rat) / 31) ^ 2
  ltDmv := [⟨⟨"a", rfl⟩, 0⟩, ⟨⟨"b", rfl⟩, 1⟩, ⟨⟨"4.x", rfl⟩, 2⟩]
  ltBlmin := [⟨⟨"a", rfl⟩, 0⟩, ⟨⟨"b", rfl⟩, 1⟩, ⟨⟨"c", rfl⟩, 2⟩, ⟨⟨"d", rfl⟩, 3⟩]
  ltIfmode := [⟨⟨"a", rfl⟩, 0⟩, ⟨⟨"b", rfl⟩, 1⟩, ⟨⟨"c", rfl⟩, 2⟩, ⟨⟨"d", rfl⟩, 3⟩]
  presets := [⟨⟨"", rfl⟩, true, 0, 0, 0, 0, 0, 0⟩, ⟨⟨"b", rfl⟩, true, 0, 0, 0, 0, 0, 0⟩,
    ⟨⟨"c", rfl⟩, false, 1, 0, 0, 0, 0, 0⟩]

theorem Config.someParams_ok : Config.ParamsOk Config.someParams where
  supportedIsLabel := rfl
  notSupportedIsLabel := rfl
  fourXIsLabel := rfl
  minLum := ⟨by decide +kernel, by decide +kernel, by decide +kernel, ⟨0, 1, by decide +kernel⟩⟩
  maxLum := ⟨by decide +kernel, by decide +kernel, by decide +kernel, ⟨0, 1, by decide +kernel⟩⟩
  dmv := ⟨by decide, by decide, by decide⟩
  dmvThree := by decide
  dmv4x := by decide
  dmvAscending := by decide
  blmin := ⟨by decide, by decide, by decide⟩
  blminCodes := by decide
  blminNo4x := by decide
  ifmode := ⟨by decide, by decide, by decide⟩
  ifmodeCodes := by decide
  presets :=
    { three := by decide
      namesDistinct := by decide
      fit := by
        intro p hp
        fin_cases hp <;> constructor <;> decide
      twoPlaceholders := by decide
      placeholdersZero := by
        intro p hp
        fin_cases hp <;> simp [PresetIn.allZero] }
  emptyIsPresetName := rfl

/-- Parameters together with the proof that they meet the spec's constraints. -/
structure Config.Given where
  params : Config.Params := Config.someParams
  ok : Config.ParamsOk params := by exact Config.someParams_ok
  deriving Inhabited

/-- The parameters "fixed when the model is instantiated" (70_reset_and_hazards.md R233). NO BODY: no proof can see
which they are, only that they meet the constraints (`Config.given.ok`). -/
opaque Config.given : Config.Given

/-- `MINLUM_TABLE` (R6, R141). -/
def Config.minLumTable : LumTable := Config.given.params.minLum

/-- `MAXLUM_TABLE` (R6, R141). -/
def Config.maxLumTable : LumTable := Config.given.params.maxLum

/-- `Label` (R6): OPEN, "any type with decidable equality". Its values are the strings that `Config.given` accepts, so
that which labels exist is a parameter (log 3). -/
abbrev Label := NamesOf Config.given.params.isLabel

/-- `PresetName` (R6), OPEN as `Label` is (log 3). -/
abbrev PresetName := NamesOf Config.given.params.isPresetName

/-- The label "supported" (R162). -/
def Label.supported : Label := ⟨"supported", Config.given.ok.supportedIsLabel⟩

/-- The label "not supported" (R162). -/
def Label.notSupported : Label := ⟨"not supported", Config.given.ok.notSupportedIsLabel⟩

/-- The label "4.x" (R163). -/
def Label.fourX : Label := ⟨"4.x", Config.given.ok.fourXIsLabel⟩

/-- One entry of a label table (R160). -/
abbrev LabelEntry := LabelEntryIn Label

/-- A label table, in enumeration order (R160). -/
abbrev LabelTable := List LabelEntry

/-- One entry of PRESETS (R173). -/
abbrev Preset := PresetIn PresetName

/-- `LT_DMV` (R6, R163). -/
def Config.ltDmv : LabelTable := Config.given.params.ltDmv

/-- `LT_BLMIN` (R6, R164). -/
def Config.ltBlmin : LabelTable := Config.given.params.ltBlmin

/-- `LT_IFMODE` (R6, R165). -/
def Config.ltIfmode : LabelTable := Config.given.params.ltIfmode

/-- `PRESETS` (R6, R173). -/
def Config.presets : List Preset := Config.given.params.presets

/-- The preset name written as the empty string, registered or not (log 22). -/
def PresetName.empty : PresetName := ⟨"", Config.given.ok.emptyIsPresetName⟩

end Sys2Proof
end

