-- ==== Sys2Proof/Machine/State.lean ====
section
/-! DEFINITION. The state of 10_state.md R39, the operand ports of R35 beside it, what the host does next, the ways a
step can stop, and the state after reset (R40). -/

namespace Sys2Proof.Machine

/-- An output register with its valid bit: either it holds no value (valid bit 0) or it holds `v` (valid bit 1), R31.
DEDUCED (log 6): the value while the valid bit is 0 is unobservable (93_implementation_defined.md I10), so none is
stored. -/
inductive OutReg (α : Type) where
  | noValue
  | holds (v : α)
  deriving DecidableEq, Repr

/-- The valid bit `X.V` of an output register (R31). -/
def OutReg.valid {α : Type} : OutReg α → Bool
  | .noValue => false
  | .holds _ => true

/-- A label result: `LABEL(l)` or `UNRECOGNIZED` (R30). -/
inductive LabelResult where
  | label (l : Label)
  | unrecognized
  deriving DecidableEq, Repr

/-- The Field Set: field registers `FS[0..17]`, 16 bits each (R20). -/
abbrev FieldSet := Vector RegVal 18

/-- The four output registers (R27 to R30). -/
inductive OutName where
  | recOut | result | nitsOut | labelOut
  deriving DecidableEq, Repr

/-- What the host can read (00_scope.md R15): an output register, its valid bit, REC_OUT as 7 bytes (R27), the hex view
of REC_OUT (40_record_codec.md R104), STATUS. -/
inductive ReadPort where
  | value (r : OutName)
  | valid (r : OutName)
  | recBytes
  | hexOut
  | status
  deriving DecidableEq, Repr

/-- A new value on one operand port (R35). -/
inductive PortDrive where
  | din (octets : List Byte)
  | lblIn (l : Label)
  | nitsIn (x : Nits)
  | pnameIn (n : PresetName)
  deriving DecidableEq, Repr

/-- One thing the host does: present a command word (R34), drive an operand port (R35), read an output (R15), or assert
the reset event (70_reset_and_hazards.md R230). -/
inductive HostInput where
  | command (w : Word)
  | drive (p : PortDrive)
  | read (p : ReadPort)
  | reset
  deriving DecidableEq, Repr

/-- The machine. The first six fields are the block's complete state (R39). -/
structure State where
  /-- `FS[0..17]` (R20). -/
  fs : FieldSet
  /-- `REC_OUT` and `REC_OUT.V` (R27). -/
  recOut : OutReg Record
  /-- `RESULT` and `RESULT.V` (R28). -/
  result : OutReg RegVal
  /-- `NITS_OUT` and `NITS_OUT.V` (R29). -/
  nitsOut : OutReg Nits
  /-- `LABEL_OUT` and `LABEL_OUT.V` (R30). -/
  labelOut : OutReg LabelResult
  /-- `STATUS` (R32). -/
  status : BitVec 16
  /-- Port `DIN` (R35): its octets in order; `DIN.len` is the length. -/
  din : List Byte
  /-- Port `LBL_IN` (R35). -/
  lblIn : Label
  /-- Port `NITS_IN` (R35). -/
  nitsIn : Nits
  /-- Port `PNAME_IN` (R35). -/
  pnameIn : PresetName
  /-- The MODEL's own field (log 1): what the host does next, first first. No part of the block. -/
  host : List HostInput
  deriving DecidableEq, Repr

/-- Why the machine stops with a fault. -/
inductive Fault where
  /-- Raised by a host read of an output register (or a view of it) whose valid bit is 0: "a model must treat such a read
  as a fault of the reading host program" (R31; 93_implementation_defined.md I9; 92_eei_decisions.md D8). No command
  raises it. Safe. -/
  | readOfNoValue (p : ReadPort)
  deriving DecidableEq, Repr

/-- Why the machine refuses. -/
inductive Refusal where
  /-- An instruction without a meaning yet; raised by no arm of `exec` now. Safe. -/
  | notModelled (mnemonic : String)
  /-- Raised when the host drives DIN with more than `DIN_MAX` octets: such an input cannot be presented (R35,
  93_implementation_defined.md I14: "refuse"). Safe. -/
  | dinTooLong (len : Nat)
  deriving DecidableEq, Repr

/-- The state after reset (R40): every field register 0, no output register holds a value, STATUS 0x0000. The spec gives
the operand ports no value before the host drives them: DESIGN CHOICE (log 2), no octets, "not supported", 0, the name
written as the empty string. The host has nothing to do yet
(log 1). -/
def State.reset : State where
  fs := Vector.replicate 18 0
  recOut := .noValue
  result := .noValue
  nitsOut := .noValue
  labelOut := .noValue
  status := 0x0000
  din := []
  lblIn := .notSupported
  nitsIn := 0
  pnameIn := .empty
  host := []

end Sys2Proof.Machine
end

