-- ==== Sys2Proof/Machine/Ops.lean ====
section
/-! DEFINITION. The named operations every command is made of: reading and writing field registers (10_state.md R20),
unpacking and packing the record (40_record_codec.md R101, R106), raising an error (00_scope.md R10, 60_exceptions.md
R203), completing (R10, R33), the reset event (70_reset_and_hazards.md R230). There is no trap, no saved state and no
return (R203, R211): raising is a next state. -/

namespace Sys2Proof.Machine

/-- `FS[f]` (R10). -/
def State.field (s : State) (f : Field) : RegVal := s.fs.get f.index

/-- `FS[f] <- v` (R10). -/
def State.setField (s : State) (f : Field) (v : RegVal) : State := { s with fs := s.fs.set f.index v }

/-- The Field Set whose register f holds `g f`, for all 18 fields at once (20_memory.md R56). -/
def fieldSetOf (g : Field → RegVal) : FieldSet :=
  #v[g .VER, g .DMV, g .BLC, g .YUV12, g .MINLUM, g .GDIM, g .BLMIN, g .MAXLUM, g .RSVD, g .IFMODE,
     g .GXH, g .I12B444, g .GY, g .I10B444, g .RX, g .BX, g .RY, g .BY]

/-- `for f in 0..17: FS[f] <- g f`, all at once. -/
def State.setAllFields (s : State) (g : Field → RegVal) : State := { s with fs := fieldSetOf g }

/-- `complete(flags)`: STATUS gets ERR = 0 and the flags, all other fields 0 (R10, R33). -/
def State.complete (s : State) (fl : Flags) : State := { s with status := statusWord 0 0 fl }

/-- `raise E(x)`: the command is abandoned, so this is applied to the state BEFORE it; STATUS gets the error's code and
detail, all flags 0 (R10, R203). -/
def State.raise (s : State) (e : ErrorKind) (detail : BitVec 5) : State :=
  { s with status := statusWord e.code detail {} }

/-- `unpack(REC, f)` (R101): bits HI(f):LO(f) of the record, zero-extended. -/
def unpack (r : Record) (f : Field) : RegVal := (r.extractLsb' f.lo f.width).setWidth 16

/-- One term of `pack`: the low W(f) bits of a value, at LO(f). -/
def packField (v : RegVal) (f : Field) : Record := ((v.setWidth f.width).setWidth 56) <<< f.lo

/-- `pack(FS)` (R106): the bitwise OR, over the fields, of each field shifted into its position. -/
def pack (fs : FieldSet) : Record :=
  Field.all.foldl (fun r f => r ||| packField (fs.get f.index) f) 0

/-- `FS[f] >= 2^W(f)`: the value exceeds its declared width (R24, R105). -/
def overflows (f : Field) (v : RegVal) : Bool := decide (2 ^ f.width ≤ v.toNat)

/-- The lowest field whose register overflows (R105, 60_exceptions.md R206). -/
def firstOverflow (fs : FieldSet) : Option Field := Field.all.find? fun f => overflows f (fs.get f.index)

/-- STATUS.FIELD of an error that names a field: the field index (60_exceptions.md R205). -/
def fieldDetail (f : Field) : BitVec 5 := BitVec.ofNat 5 f.index.val

/-- Byte i of the record, `REC[55-8i : 48-8i]` (10_state.md R23). -/
def recordByte (r : Record) (i : Nat) : Byte := r.extractLsb' (48 - 8 * i) 8

/-- The 7 bytes of a record in wire order (R23, R27). -/
def recordBytes (r : Record) : List Byte := (List.range 7).map (recordByte r)

/-- The reset event (R230): every piece of the block's state takes its reset value. DEDUCED (log 9): the operand ports,
which are inputs the block never writes (R35, R235), and what the host does next stay. -/
def State.resetEvent (s : State) : State :=
  { s with
    fs := State.reset.fs
    recOut := State.reset.recOut
    result := State.reset.result
    nitsOut := State.reset.nitsOut
    labelOut := State.reset.labelOut
    status := State.reset.status }

end Sys2Proof.Machine
end

