-- ==== Sys2Proof/Machine/Operands.lean ====
section
/-! DEFINITION. What commands read from the operand ports and from the constant data: octets and hex characters
(40_record_codec.md R100, R103), the hex view (R104), luminance tables and nearest (42_luminance.md R140, R142), label
tables and their two maps (43_flag_mappers.md R161, R162, R166, R167), presets (R174). -/

namespace Sys2Proof.Machine

/-- `DIN[i]` (00_scope.md R10), used only for i < DIN.len. -/
def octet (octets : List Byte) (i : Nat) : Byte := octets.getD i 0

/-- `DIN[0] ++ DIN[1] ++ ... ++ DIN[6]` (R100). -/
def recordOfOctets (octets : List Byte) : Record :=
  octet octets 0 ++ octet octets 1 ++ octet octets 2 ++ octet octets 3 ++ octet octets 4 ++ octet octets 5
    ++ octet octets 6

/-- `hexval(c)` (R103): the digit value of an ASCII hex character, of either case; none for any other octet. -/
def hexval (c : Byte) : Option (BitVec 4) :=
  if 0x30 ≤ c ∧ c ≤ 0x39 then some ((c - 0x30).setWidth 4)
  else if 0x41 ≤ c ∧ c ≤ 0x46 then some ((c - 0x37).setWidth 4)
  else if 0x61 ≤ c ∧ c ≤ 0x66 then some ((c - 0x57).setWidth 4)
  else none

/-- The position of the first octet that is no hex digit (R102, 60_exceptions.md R206). -/
def firstNonHex (octets : List Byte) : Option Nat := octets.findIdx? fun c => (hexval c).isNone

/-- `hexval(DIN[i])` where it is known to be a digit. -/
def hexNibble (octets : List Byte) (i : Nat) : BitVec 4 := (hexval (octet octets i)).getD 0

/-- `Bj <- hexval(DIN[2j]) ++ hexval(DIN[2j+1])` (R102): the first character is the high nibble (20_memory.md R54). -/
def hexByte (octets : List Byte) (j : Nat) : Byte := hexNibble octets (2 * j) ++ hexNibble octets (2 * j + 1)

/-- The record a 14-character wire string spells (R102). -/
def recordOfHex (octets : List Byte) : Record := recordOfOctets ((List.range 7).map (hexByte octets))

/-- `hexdigit(n)` (R104): lowercase ASCII. -/
def hexdigit (n : BitVec 4) : Byte :=
  if n.toNat < 10 then 0x30 + n.setWidth 8 else 0x61 + (n.setWidth 8 - 10)

/-- The two characters of a byte, high nibble first (R104). -/
def hexPair (b : Byte) : List Byte := [hexdigit (b.extractLsb' 4 4), hexdigit (b.extractLsb' 0 4)]

/-- `HEX_OUT` of a record (R104): 14 ASCII characters. -/
def hexOfRecord (r : Record) : List Byte := (recordBytes r).flatMap hexPair

/-- `T(f)` (R140). -/
def lumTable : Field → Option LumTable
  | .MINLUM => some Config.minLumTable
  | .MAXLUM => some Config.maxLumTable
  | .VER => none | .DMV => none | .BLC => none | .YUV12 => none | .GDIM => none | .BLMIN => none
  | .RSVD => none | .IFMODE => none | .GXH => none | .I12B444 => none | .GY => none | .I10B444 => none
  | .RX => none | .BX => none | .RY => none | .BY => none

/-- The loop of R142 over the indices still to try: strict `<` keeps the lower index on a tie. -/
def nearestFrom (T : LumTable) (x : Nits) : Fin 32 → List (Fin 32) → Fin 32
  | best, [] => best
  | best, i :: rest => nearestFrom T x (if |T i - x| < |T best - x| then i else best) rest

/-- `nearest(T, x)` (R142): best is 0, then i runs over 1..31. -/
def nearest (T : LumTable) (x : Nits) : Fin 32 := nearestFrom T x 0 (List.finRange 32).tail

/-- `LT_BOOL` (R162). -/
def ltBool : LabelTable := [⟨.notSupported, 0⟩, ⟨.supported, 1⟩]

/-- `LT(f)` (R161). -/
def labelTable : Field → Option LabelTable
  | .BLC => some ltBool
  | .YUV12 => some ltBool
  | .GDIM => some ltBool
  | .I12B444 => some ltBool
  | .I10B444 => some ltBool
  | .DMV => some Config.ltDmv
  | .BLMIN => some Config.ltBlmin
  | .IFMODE => some Config.ltIfmode
  | .VER => none | .MINLUM => none | .MAXLUM => none | .RSVD => none | .GXH => none | .GY => none
  | .RX => none | .BX => none | .RY => none | .BY => none

/-- `codeToLabel(LT, c)` (R166): total. -/
def codeToLabel (lt : LabelTable) (c : RegVal) : LabelResult :=
  match lt.find? (fun e => e.code == c) with
  | some e => .label e.label
  | none => .unrecognized

/-- `labelToCode(LT, l)` (R167): partial, exact equality of labels. -/
def labelToCode (lt : LabelTable) (l : Label) : Option RegVal :=
  (lt.find? fun e => decide (e.label = l)).map LabelEntryIn.code

/-- "The entry of PRESETS with name = PNAME_IN" (R174). -/
def presetNamed (n : PresetName) : Option Preset := Config.presets.find? fun p => decide (p.name = n)

end Sys2Proof.Machine
end

