-- ==== Sys2Proof/Machine/Codec.lean ====
section
/-! DEFINITION. DECODE, HEXDEC and ENCODE (40_record_codec.md R100, R102, R105). -/

namespace Sys2Proof.Machine

/-- DECODE (R100). -/
def execDecode (s : State) : Host.Outcome State Fault Refusal :=
  .next <|
    if s.din.length ≠ 7 then s.raise .invalidLength 0
    else (s.setAllFields (unpack (recordOfOctets s.din))).complete {}

/-- HEXDEC (R102): the length first, then the first bad octet. -/
def execHexdec (s : State) : Host.Outcome State Fault Refusal :=
  .next <|
    if s.din.length ≠ 14 then s.raise .invalidLength 0
    else
      match firstNonHex s.din with
      | some i => s.raise .invalidHexCharacter (BitVec.ofNat 5 i)
      | none => (s.setAllFields (unpack (recordOfHex s.din))).complete {}

/-- ENCODE (R105): the width check over all fields, then the record. -/
def execEncode (s : State) : Host.Outcome State Fault Refusal :=
  .next <|
    match firstOverflow s.fs with
    | some f => s.raise .fieldOverflow (fieldDetail f)
    | none => State.complete { s with recOut := .holds (pack s.fs) } {}

end Sys2Proof.Machine
end

