-- ==== Sys2Proof/Machine/FieldAccess.lean ====
section
/-! DEFINITION. NOP, NEWFS, LDF, RDF and SETF (41_field_access.md R120 to R124). -/

namespace Sys2Proof.Machine

/-- NOP (R120). -/
def execNop (s : State) : Host.Outcome State Fault Refusal := .next (s.complete {})

/-- NEWFS (R121): every field at `DEFAULT_FS`; the outputs stay. -/
def execNewfs (s : State) : Host.Outcome State Fault Refusal := .next ((s.setAllFields Field.default).complete {})

/-- LDF (R122): no width check. -/
def execLdf (f : Field) (imm : RegVal) (s : State) : Host.Outcome State Fault Refusal :=
  .next ((s.setField f imm).complete {})

/-- SETF (R124): the width check before any write. -/
def execSetf (f : Field) (imm : RegVal) (s : State) : Host.Outcome State Fault Refusal :=
  .next <|
    if overflows f imm then s.raise .fieldOverflow (fieldDetail f)
    else (s.setField f imm).complete {}

/-- RDF (R123): the register verbatim. -/
def execRdf (f : Field) (s : State) : Host.Outcome State Fault Refusal :=
  .next (State.complete { s with result := .holds (s.field f) } {})

end Sys2Proof.Machine
end

