-- ==== Sys2Proof/Machine/Luminance.lean ====
section
/-! DEFINITION. LUMSET and LUMGET (42_luminance.md R143, R144). A field without a luminance table raises IllegalCommand
(R140); no command word gives one (30_encoding.md R73). -/

namespace Sys2Proof.Machine

/-- LUMSET (R143). -/
def execLumset (f : Field) (s : State) : Host.Outcome State Fault Refusal :=
  .next <|
    match lumTable f with
    | none => s.raise .illegalCommand 0
    | some T =>
      (s.setField f (BitVec.ofNat 16 (nearest T s.nitsIn).val)).complete
        { approx := decide (T (nearest T s.nitsIn) ≠ s.nitsIn) }

/-- LUMGET (R144). -/
def execLumget (f : Field) (s : State) : Host.Outcome State Fault Refusal :=
  .next <|
    match lumTable f with
    | none => s.raise .illegalCommand 0
    | some T =>
      if h : (s.field f).toNat < 32 then
        State.complete { s with nitsOut := .holds (T ⟨(s.field f).toNat, h⟩) } {}
      else s.raise .fieldOverflow (fieldDetail f)

end Sys2Proof.Machine
end

