-- ==== Sys2Proof/Machine/Mappers.lean ====
section
/-! DEFINITION. SETL, GETL, ENUML, SETB, GETB and SETP (43_flag_mappers.md R168 to R174). A field without a label table
(R161), or for SETB and GETB not of class bool, raises IllegalCommand; no command word gives one (30_encoding.md R73). -/

namespace Sys2Proof.Machine

/-- SETL (R168). -/
def execSetl (f : Field) (s : State) : Host.Outcome State Fault Refusal :=
  .next <|
    match labelTable f with
    | none => s.raise .illegalCommand 0
    | some lt =>
      match labelToCode lt s.lblIn with
      | none => s.raise .unknownLabel 0
      | some c => (s.setField f c).complete {}

/-- GETL (R169). -/
def execGetl (f : Field) (s : State) : Host.Outcome State Fault Refusal :=
  .next <|
    match labelTable f with
    | none => s.raise .illegalCommand 0
    | some lt =>
      if overflows f (s.field f) then s.raise .fieldOverflow (fieldDetail f)
      else
        State.complete { s with labelOut := .holds (codeToLabel lt (s.field f)) }
          { unrec := decide (codeToLabel lt (s.field f) = .unrecognized) }

/-- ENUML (R170). -/
def execEnuml (f : Field) (k : RegVal) (s : State) : Host.Outcome State Fault Refusal :=
  .next <|
    match labelTable f with
    | none => s.raise .illegalCommand 0
    | some lt =>
      match lt[k.toNat]? with
      | some e => State.complete { s with labelOut := .holds (.label e.label), result := .holds e.code } {}
      | none => s.complete { atEnd := true }

/-- SETB (R171). -/
def execSetb (f : Field) (b : Bool) (s : State) : Host.Outcome State Fault Refusal :=
  .next <|
    if f.cls = .bool then (s.setField f ((BitVec.ofBool b).setWidth 16)).complete {}
    else s.raise .illegalCommand 0

/-- GETB (R172). -/
def execGetb (f : Field) (s : State) : Host.Outcome State Fault Refusal :=
  .next <|
    if f.cls = .bool then
      if 2 ≤ (s.field f).toNat then s.raise .fieldOverflow (fieldDetail f)
      else State.complete { s with result := .holds (s.field f) } {}
    else s.raise .illegalCommand 0

/-- SETP (R174): all six fragments at once, or none. -/
def execSetp (s : State) : Host.Outcome State Fault Refusal :=
  .next <|
    match presetNamed s.pnameIn with
    | none => s.raise .unknownPreset 0
    | some p =>
      ((((((s.setField .GXH p.GXH).setField .GY p.GY).setField .RX p.RX).setField .BX p.BX).setField .RY p.RY).setField
        .BY p.BY).complete { unver := p.placeholder }

end Sys2Proof.Machine
end

