-- ==== Sys2Proof/Machine/Dispatch.lean ====
section
/-! DEFINITION. One arm per constructor of Instr, in the order of spec/opcode_table.json. -/

namespace Sys2Proof.Machine

def exec (i : Instr) (s : State) : Host.Outcome State Fault Refusal :=
  match i with
  | .nop => Sys2Proof.Machine.execNop s
  | .decode => Sys2Proof.Machine.execDecode s
  | .hexdec => Sys2Proof.Machine.execHexdec s
  | .encode => Sys2Proof.Machine.execEncode s
  | .newfs => Sys2Proof.Machine.execNewfs s
  | .ldf f imm => Sys2Proof.Machine.execLdf f imm s
  | .setf f imm => Sys2Proof.Machine.execSetf f imm s
  | .rdf f => Sys2Proof.Machine.execRdf f s
  | .lumset f => Sys2Proof.Machine.execLumset f s
  | .lumget f => Sys2Proof.Machine.execLumget f s
  | .setl f => Sys2Proof.Machine.execSetl f s
  | .getl f => Sys2Proof.Machine.execGetl f s
  | .enuml f k => Sys2Proof.Machine.execEnuml f k s
  | .setb f b => Sys2Proof.Machine.execSetb f b s
  | .getb f => Sys2Proof.Machine.execGetb f s
  | .setp => Sys2Proof.Machine.execSetp s

end Sys2Proof.Machine
end

