-- ==== Sys2Proof/Machine/Perform.lean ====
section
/-! DEFINITION. What each thing the host does makes the machine do: a command word is decoded and run (30_encoding.md
R76), an operand port takes a new value (10_state.md R35), an output is read (00_scope.md R15, R31), reset is asserted
(70_reset_and_hazards.md R230). -/

namespace Sys2Proof.Machine

/-- A command word on the command port (R34): its instruction runs, or IllegalCommand(0) is raised (R76, R77). -/
def performWord (w : Word) (s : State) : Host.Outcome State Fault Refusal :=
  match decodeCmd w with
  | .ok i => exec i s
  | .error _ => .next (s.raise .illegalCommand 0)

/-- The host drives an operand port; the value stays until the host changes it (R35, R235). More than DIN_MAX octets
cannot be presented (I14). -/
def drivePort (p : PortDrive) (s : State) : Host.Outcome State Fault Refusal :=
  match p with
  | .din octets => if octets.length ≤ Config.dinMax then .next { s with din := octets } else .refused (.dinTooLong octets.length)
  | .lblIn l => .next { s with lblIn := l }
  | .nitsIn x => .next { s with nitsIn := x }
  | .pnameIn n => .next { s with pnameIn := n }

/-- What the host gets from a read. -/
inductive Observation where
  | record (r : Record)
  | bytes (bs : List Byte)
  | chars (cs : List Byte)
  | value (v : RegVal)
  | nits (x : Nits)
  | label (l : LabelResult)
  | bit (b : Bool)
  | status (st : BitVec 16)
  deriving DecidableEq, Repr

/-- The value of an output register as the host reads it; none while its valid bit is 0 (R31). -/
def OutReg.observe {α : Type} (r : OutReg α) (f : α → Observation) : Option Observation :=
  match r with
  | .noValue => none
  | .holds v => some (f v)

/-- What the host observes at a read port (R15, R27, R31, R104). -/
def observe (p : ReadPort) (s : State) : Option Observation :=
  match p with
  | .value .recOut => s.recOut.observe .record
  | .value .result => s.result.observe .value
  | .value .nitsOut => s.nitsOut.observe .nits
  | .value .labelOut => s.labelOut.observe .label
  | .valid .recOut => some (.bit s.recOut.valid)
  | .valid .result => some (.bit s.result.valid)
  | .valid .nitsOut => some (.bit s.nitsOut.valid)
  | .valid .labelOut => some (.bit s.labelOut.valid)
  | .recBytes => s.recOut.observe fun r => .bytes (recordBytes r)
  | .hexOut => s.recOut.observe fun r => .chars (hexOfRecord r)
  | .status => some (.status s.status)

/-- A host read: it changes nothing (20_memory.md R58); a read that gives no value is a fault of the host program:
the spec's own stop, R31 with 93_implementation_defined.md I9 ("fault: the model stops with an error") and
92_eei_decisions.md D8. No command comes here. -/
def readPort (p : ReadPort) (s : State) : Host.Outcome State Fault Refusal :=
  match observe p s with
  | some _ => .next s
  | none => .fault (.readOfNoValue p)

/-- One thing the host does. -/
def performInput (e : HostInput) (s : State) : Host.Outcome State Fault Refusal :=
  match e with
  | .command w => performWord w s
  | .drive p => drivePort p s
  | .read p => readPort p s
  | .reset => .next s.resetEvent

/-- The host's next input is taken from its script; with none the block waits, unchanged (log 1). -/
def takeInput (s : State) : Host.Outcome State Fault Refusal :=
  match s.host with
  | [] => .next s
  | e :: rest => performInput e { s with host := rest }

/-- The state in which the host's next input presents the word `w`. -/
def presentWord (s : State) (w : Word) : State := { s with host := .command w :: s.host }

end Sys2Proof.Machine
end

