-- ==== Sys2Proof/Machine/Step.lean ====
section
/-! DEFINITION. One step: the host's next input is performed (00_scope.md R11, 10_state.md R34). The block fetches
nothing (R37): a command word comes to run by being the host's next input. -/

namespace Sys2Proof.Machine

/-- One step of the machine. -/
def step (s : State) : Host.Outcome State Fault Refusal := takeInput s

/-- `s` with the table's word `w` as the next thing the host presents on the command port. Every row of the table has 32
bits, one whole command word (30_encoding.md R78), so `nbits` adds nothing. -/
def State.withFetchWord (s : State) (_nbits w : Nat) : State := presentWord s (BitVec.ofNat 32 w)

end Sys2Proof.Machine
end

