-- ==== Sys2Proof/Machine/Assembler.lean ====
section
/-! DEFINITION. The host-side text form of commands: assembler lines (30_encoding.md R79, R80), pseudo-instructions
(R81) and listing lines (R82). A line is data here, `SourceLine`, with its text `sourceText`; assembling it gives what
the host does: drive the operand port the line names, then present the command word. Spacing conventions: log 19. -/

namespace Sys2Proof.Machine

/-- A field operand: "the field's mnemonic ... or its decimal index" (R79). -/
inductive FieldRef where
  | mnemonic (f : Field)
  | index (n : Nat)
  deriving DecidableEq, Repr

/-- An immediate: "a decimal or 0x hex number" (R79). -/
inductive ImmText where
  | decimal (n : Nat)
  | hex (n : Nat)
  deriving DecidableEq, Repr

/-- The number an immediate writes. -/
def ImmText.value : ImmText → Nat
  | .decimal n => n
  | .hex n => n

/-- An assembler line: the sixteen commands with their operands (R79, R80) and the five pseudo-instructions (R81). -/
inductive SourceLine where
  | nop
  | decode (octets : List Byte)
  | hexdec (chars : String)
  | encode
  | newfs
  | ldf (f : FieldRef) (imm : ImmText)
  | setf (f : FieldRef) (imm : ImmText)
  | rdf (f : FieldRef)
  | lumset (f : FieldRef) (nits : Nits)
  | lumget (f : FieldRef)
  | setl (f : FieldRef) (label : Label)
  | getl (f : FieldRef)
  | enuml (f : FieldRef) (k : ImmText)
  | setb (f : FieldRef) (b : ImmText)
  | getb (f : FieldRef)
  | setp (name : PresetName)
  | clr (f : FieldRef)
  | setTrue (f : FieldRef)
  | setFalse (f : FieldRef)
  | roundtrip (octets : List Byte)
  | hexrt (chars : String)
  deriving DecidableEq, Repr

/-- Why the assembler refuses a line (R80). -/
inductive AsmError where
  /-- The index names no field, or the field's class is not admitted (R73). -/
  | badField
  /-- "An immediate that does not fit 16 bits." -/
  | immediateTooWide
  /-- "A SETB operand other than 0 or 1." -/
  | notABit
  /-- A character of a HEXDEC string that has no ASCII code. -/
  | notAscii
  deriving DecidableEq, Repr

/-- The field a field operand names, if its class is admitted (R73, R80). -/
def FieldRef.resolve (r : FieldRef) (admits : List FieldClass) : Except AsmError Field :=
  match (match r with | .mnemonic f => some f | .index n => Field.ofIndex? n) with
  | none => .error .badField
  | some f => if admits.contains f.cls then .ok f else .error .badField

/-- A 16-bit immediate (R80). -/
def ImmText.resolve (i : ImmText) : Except AsmError RegVal :=
  if i.value < 2 ^ 16 then .ok (BitVec.ofNat 16 i.value) else .error .immediateTooWide

/-- SETB's operand (R80). -/
def ImmText.resolveBit (i : ImmText) : Except AsmError Bool :=
  if i.value = 0 then .ok false else if i.value = 1 then .ok true else .error .notABit

/-- The ASCII codes of a HEXDEC string's characters (R79, R82). -/
def asciiOctets : List Char → Except AsmError (List Byte)
  | [] => .ok []
  | c :: rest =>
    if c.toNat < 128 then
      match asciiOctets rest with
      | .ok bs => .ok (BitVec.ofNat 8 c.toNat :: bs)
      | .error e => .error e
    else .error .notAscii

/-- What the host does for one command: present the word of an instruction. -/
def present (i : Instr) : List HostInput := [.command (encode i)]

/-- One command that takes a field operand only. -/
def assembleField (r : FieldRef) (admits : List FieldClass) (drives : List PortDrive) (build : Field → Instr) :
    Except AsmError (List HostInput) :=
  match r.resolve admits with
  | .ok f => .ok (drives.map HostInput.drive ++ present (build f))
  | .error e => .error e

/-- One command that takes a field operand and an immediate. -/
def assembleFieldImm (r : FieldRef) (admits : List FieldClass) (imm : ImmText) (build : Field → RegVal → Instr) :
    Except AsmError (List HostInput) :=
  match imm.resolve with
  | .ok v => assembleField r admits [] fun f => build f v
  | .error e => .error e

/-- One command whose string operand travels on DIN. -/
def assembleChars (chars : String) (is : List Instr) : Except AsmError (List HostInput) :=
  match asciiOctets chars.toList with
  | .ok bs => .ok (.drive (.din bs) :: is.flatMap present)
  | .error e => .error e

/-- R80 and R81: what the host does for an assembler line. DESIGN CHOICE (log 23): R81 writes ROUNDTRIP with the seven
octets b0..b6 and R80 names no octet count among its refusals, so ROUNDTRIP takes any number of octets, as DECODE does,
and HEXRT any string that HEXDEC takes; DECODE then reports the length. -/
def assemble : SourceLine → Except AsmError (List HostInput)
  | .nop => .ok (present .nop)
  | .decode octets => .ok (.drive (.din octets) :: present .decode)
  | .hexdec chars => assembleChars chars [.hexdec]
  | .encode => .ok (present .encode)
  | .newfs => .ok (present .newfs)
  | .ldf f imm => assembleFieldImm f FieldClass.any imm .ldf
  | .setf f imm => assembleFieldImm f FieldClass.any imm .setf
  | .rdf f => assembleField f FieldClass.any [] .rdf
  | .lumset f nits => assembleField f FieldClass.lumOnly [.nitsIn nits] .lumset
  | .lumget f => assembleField f FieldClass.lumOnly [] .lumget
  | .setl f label => assembleField f FieldClass.labelled [.lblIn label] .setl
  | .getl f => assembleField f FieldClass.labelled [] .getl
  | .enuml f k => assembleFieldImm f FieldClass.labelled k .enuml
  | .setb f b =>
    match b.resolveBit with
    | .ok v => assembleField f FieldClass.boolOnly [] fun f => .setb f v
    | .error e => .error e
  | .getb f => assembleField f FieldClass.boolOnly [] .getb
  | .setp name => .ok (.drive (.pnameIn name) :: present .setp)
  | .clr f => assembleField f FieldClass.any [] fun f => .setf f 0
  | .setTrue f => assembleField f FieldClass.boolOnly [] fun f => .setb f true
  | .setFalse f => assembleField f FieldClass.boolOnly [] fun f => .setb f false
  | .roundtrip octets => .ok (.drive (.din octets) :: (present .decode ++ present .encode))
  | .hexrt chars => assembleChars chars [.hexdec, .encode]

/-- A field's mnemonic as the assembler writes it (10_state.md R21). -/
def fieldName : Field → String
  | .VER => "VER" | .DMV => "DMV" | .BLC => "BLC" | .YUV12 => "YUV12" | .MINLUM => "MINLUM" | .GDIM => "GDIM"
  | .BLMIN => "BLMIN" | .MAXLUM => "MAXLUM" | .RSVD => "RSVD" | .IFMODE => "IFMODE" | .GXH => "GXH"
  | .I12B444 => "I12B444" | .GY => "GY" | .I10B444 => "I10B444" | .RX => "RX" | .BX => "BX" | .RY => "RY"
  | .BY => "BY"

/-- A hex digit of a listing, lowercase. -/
def hexChar (n : BitVec 4) : Char := Char.ofNat (hexdigit n).toNat

/-- An octet as two hex digits. -/
def octetText (b : Byte) : String := String.ofList [hexChar (b.extractLsb' 4 4), hexChar (b.extractLsb' 0 4)]

/-- "The command word as 8 hex digits" (R82). -/
def wordText (w : Word) : String :=
  String.ofList ((List.range 8).map fun i => hexChar (w.extractLsb' (28 - 4 * i) 4))

/-- Octets separated by spaces (R79, R82). -/
def octetsText (bs : List Byte) : String := " ".intercalate (bs.map octetText)

/-- The text of a field operand (R79). -/
def FieldRef.text : FieldRef → String
  | .mnemonic f => fieldName f
  | .index n => toString n

/-- The text of an immediate (R79). -/
def ImmText.text : ImmText → String
  | .decimal n => toString n
  | .hex n => "0x" ++ String.ofList (Nat.toDigits 16 n)

/-- The text of a nits value: a whole number, or a fraction (R79). -/
def nitsText (x : Nits) : String := if x.den = 1 then toString x.num else toString x.num ++ "/" ++ toString x.den

/-- A quoted string operand (R79). -/
def quoted (t : String) : String := "\"" ++ t ++ "\""

/-- DECODE's brace list of octets (R79); 123 and 125 are the codes of the braces. -/
def braceList (bs : List Byte) : String :=
  String.ofList [Char.ofNat 123] ++ octetsText bs ++ String.ofList [Char.ofNat 125]

/-- The text of an assembler line (R79, R80, R81). -/
def sourceText : SourceLine → String
  | .nop => "NOP"
  | .decode octets => "DECODE " ++ braceList octets
  | .hexdec chars => "HEXDEC " ++ quoted chars
  | .encode => "ENCODE"
  | .newfs => "NEWFS"
  | .ldf f imm => "LDF " ++ f.text ++ ", " ++ imm.text
  | .setf f imm => "SETF " ++ f.text ++ ", " ++ imm.text
  | .rdf f => "RDF " ++ f.text
  | .lumset f nits => "LUMSET " ++ f.text ++ ", " ++ nitsText nits
  | .lumget f => "LUMGET " ++ f.text
  | .setl f label => "SETL " ++ f.text ++ ", " ++ quoted label.val
  | .getl f => "GETL " ++ f.text
  | .enuml f k => "ENUML " ++ f.text ++ ", " ++ k.text
  | .setb f b => "SETB " ++ f.text ++ ", " ++ b.text
  | .getb f => "GETB " ++ f.text
  | .setp name => "SETP " ++ quoted name.val
  | .clr f => "CLR " ++ f.text
  | .setTrue f => "TRUE " ++ f.text
  | .setFalse f => "FALSE " ++ f.text
  | .roundtrip octets => "ROUNDTRIP " ++ braceList octets
  | .hexrt chars => "HEXRT " ++ quoted chars

/-- The port payload of a listing line (R82): for each port the line drives, its name and value. -/
def payloadText : HostInput → String
  | .drive (.din bs) => "   ; DIN = " ++ octetsText bs
  | .drive (.lblIn l) => "   ; LBL_IN = " ++ quoted l.val
  | .drive (.nitsIn x) => "   ; NITS_IN = " ++ nitsText x
  | .drive (.pnameIn n) => "   ; PNAME_IN = " ++ quoted n.val
  | .command _ => ""
  | .read _ => ""
  | .reset => ""

/-- The command words among what the host does, as listed. -/
def listedWord : HostInput → List String
  | .command w => [wordText w]
  | .drive _ => []
  | .read _ => []
  | .reset => []

/-- The listing line (R82): the command word, the source line, then the port payload if there is one. A
pseudo-instruction of two commands lists both words. -/
def listingLine (line : SourceLine) : Except AsmError String :=
  match assemble line with
  | .ok inputs =>
    .ok (" ".intercalate (inputs.flatMap listedWord) ++ "  " ++ sourceText line ++ "".intercalate (inputs.map payloadText))
  | .error e => .error e

end Sys2Proof.Machine
end

