-- ==== Sys2Proof/Safety.lean ====
section
/-! DEFINITION. The terms claims about the machine use: what STATUS can read (10_state.md R32), the invariant of a run,
what a command leaves unchanged, which words are no command in the words of 30_encoding.md R73, R75 and R77, and which
inputs leave RSVD alone (40_record_codec.md R109). -/

namespace Sys2Proof.Machine

/-- The value fits the declared width of field f (10_state.md R24). -/
abbrev Fits (f : Field) (v : RegVal) : Prop := v.toNat < 2 ^ f.width

/-- Every field register is in width. -/
def InWidth (s : State) : Prop := ∀ f, Fits f (s.field f)

/-- R32, below the table of STATUS: bits 15:12 read 0, ERR never reads 7, FIELD is 0 unless ERR is 2 or 3 and then in
its range, the flags are 0 unless ERR is 0. -/
structure StatusOk (st : BitVec 16) : Prop where
  reserved : statusReserved st = 0
  err : statusErr st ≠ 7
  noField : statusErr st ≠ 2 → statusErr st ≠ 3 → statusField st = 0
  hexField : statusErr st = 2 → (statusField st).toNat ≤ 13
  overflowField : statusErr st = 3 → (statusField st).toNat ≤ 17
  noFlags : statusErr st ≠ 0 →
    statusApprox st = false ∧ statusUnrec st = false ∧ statusEnd st = false ∧ statusUnver st = false

/-- What the output registers can hold: NITS_OUT a luminance table's entry (R29), LABEL_OUT a label of some label table
or UNRECOGNIZED (R30). -/
structure OutputsOk (s : State) : Prop where
  nits : ∀ x, s.nitsOut = .holds x → ∃ f T i, lumTable f = some T ∧ x = T i
  label : ∀ l, s.labelOut = .holds (.label l) → ∃ f lt c, labelTable f = some lt ∧ (⟨l, c⟩ : LabelEntry) ∈ lt

/-- The invariant of a run. -/
structure Inv (s : State) : Prop where
  status : StatusOk s.status
  outputs : OutputsOk s
  din : s.din.length ≤ 255

/-- Everything but the field registers and STATUS is unchanged. -/
def ChangesFieldsOnly (s t : State) : Prop := t = { s with fs := t.fs, status := t.status }

/-- Everything but field f and STATUS is unchanged. -/
def ChangesFieldOnly (f : Field) (s t : State) : Prop :=
  (∀ g, g ≠ f → t.field g = s.field g) ∧ ChangesFieldsOnly s t

/-- Everything but REC_OUT and STATUS is unchanged. -/
def ChangesRecOutOnly (s t : State) : Prop := t = { s with recOut := t.recOut, status := t.status }

/-- STATUS after an error that names a number: ERR in bits 2:0, FIELD in bits 7:3 (R32, 60_exceptions.md R201). -/
def errorStatus (err detail : Nat) : BitVec 16 := BitVec.ofNat 16 (err + 8 * detail)

/-- The label table of each field, as 43_flag_mappers.md R161 and R162 give it. -/
def LabelTableOf (f : Field) (lt : LabelTable) : Prop :=
  (f ∈ [Field.BLC, .YUV12, .GDIM, .I12B444, .I10B444] ∧ lt = [⟨.notSupported, 0⟩, ⟨.supported, 1⟩]) ∨
  (f = .DMV ∧ lt = Config.ltDmv) ∨ (f = .BLMIN ∧ lt = Config.ltBlmin) ∨ (f = .IFMODE ∧ lt = Config.ltIfmode)

/-- The command i, which left the state t, wrote REC_OUT (20_memory.md R57, 10_state.md R31). -/
def WritesRecOut (i : Instr) (t : State) : Prop := i = .encode ∧ statusErr t.status = 0

/-- It wrote RESULT. -/
def WritesResult (i : Instr) (t : State) : Prop :=
  (((∃ f, i = .rdf f) ∨ ∃ f, i = .getb f) ∧ statusErr t.status = 0) ∨ ((∃ f k, i = .enuml f k) ∧ t.status = 0x0000)

/-- It wrote NITS_OUT. -/
def WritesNitsOut (i : Instr) (t : State) : Prop := (∃ f, i = .lumget f) ∧ statusErr t.status = 0

/-- It wrote LABEL_OUT. -/
def WritesLabelOut (i : Instr) (t : State) : Prop :=
  ((∃ f, i = .getl f) ∧ statusErr t.status = 0) ∨ ((∃ f k, i = .enuml f k) ∧ t.status = 0x0000)

/-- "All opcodes not in rule R74 are reserved" (30_encoding.md R77, its list). -/
abbrev OpReserved (op : BitVec 8) : Prop :=
  (0x04 ≤ op ∧ op ≤ 0x07) ∨ (0x0C ≤ op ∧ op ≤ 0x0F) ∨ (0x12 ≤ op ∧ op ≤ 0x17) ∨ (0x1D ≤ op ∧ op ≤ 0x1F) ∨ 0x21 ≤ op

/-- Column "uses f" of R74. -/
abbrev OpUsesF (op : BitVec 8) : Prop :=
  op ∈ ([0x09, 0x0A, 0x0B, 0x10, 0x11, 0x18, 0x19, 0x1A, 0x1B, 0x1C] : List (BitVec 8))

/-- Column "uses imm" of R74, where all 16 bits are used. -/
abbrev OpUsesImm (op : BitVec 8) : Prop := op ∈ ([0x09, 0x0A, 0x1A] : List (BitVec 8))

/-- R75: some required-zero bit is 1. -/
abbrev RequiredZeroBroken (w : Word) : Prop :=
  wordZ w ≠ 0 ∨ (¬ OpUsesF (wordOp w) ∧ wordF w ≠ 0) ∨
  (¬ OpUsesImm (wordOp w) ∧ wordOp w ≠ 0x1B ∧ wordImm w ≠ 0) ∨ (wordOp w = 0x1B ∧ 2 ≤ (wordImm w).toNat)

/-- R73: the opcode takes a field and f is not one it admits. -/
abbrev FieldInadmissible (w : Word) : Prop :=
  (wordOp w ∈ ([0x09, 0x0A, 0x0B] : List (BitVec 8)) ∧ 17 < (wordF w).toNat) ∨
  (wordOp w ∈ ([0x10, 0x11] : List (BitVec 8)) ∧ (wordF w).toNat ∉ [4, 7]) ∨
  (wordOp w ∈ ([0x18, 0x19, 0x1A] : List (BitVec 8)) ∧ (wordF w).toNat ∉ [1, 2, 3, 5, 6, 9, 11, 13]) ∨
  (wordOp w ∈ ([0x1B, 0x1C] : List (BitVec 8)) ∧ (wordF w).toNat ∉ [2, 3, 5, 11, 13])

/-- The commands of R109 that can change FS[8], in the state they are issued in: a DECODE or HEXDEC that succeeds, NEWFS,
LDF RSVD, SETF RSVD. -/
def MayChangeRsvd (i : Instr) (s : State) : Prop :=
  match i with
  | .decode => s.din.length = 7
  | .hexdec => s.din.length = 14 ∧ ∀ c ∈ s.din, hexval c ≠ none
  | .newfs => True
  | .ldf f _ => f = .RSVD
  | .setf f _ => f = .RSVD
  | .nop => False
  | .encode => False
  | .rdf _ => False
  | .lumset _ => False
  | .lumget _ => False
  | .setl _ => False
  | .getl _ => False
  | .enuml _ _ => False
  | .setb _ _ => False
  | .getb _ => False
  | .setp => False

/-- The next input leaves FS[8] alone: it is no reset event and no command of `MayChangeRsvd`. -/
def NextInputKeepsRsvd (s : State) : Prop :=
  ∀ e rest, s.host = e :: rest → e ≠ .reset ∧ ∀ w i, e = .command w → decodeCmd w = .ok i → ¬ MayChangeRsvd i s

/-- The error codes each command may leave in STATUS.ERR, success included, once its word has been accepted
(60_exceptions.md R202). -/
def allowedErr : Instr → List (BitVec 3)
  | .nop => [0]
  | .decode => [0, 1]
  | .hexdec => [0, 1, 2]
  | .encode => [0, 3]
  | .newfs => [0]
  | .ldf _ _ => [0]
  | .setf _ _ => [0, 3]
  | .rdf _ => [0]
  | .lumset _ => [0]
  | .lumget _ => [0, 3]
  | .setl _ => [0, 4]
  | .getl _ => [0, 3]
  | .enuml _ _ => [0]
  | .setb _ _ => [0]
  | .getb _ => [0, 3]
  | .setp => [0, 5]

end Sys2Proof.Machine
end

