-- ==== Sys2Proof/Certificates/Slice0/Obligations.lean ====
section
/-! DEFINITION. The statements for the provers. Each docstring names the rules of spec/ it comes from. A statement that
says "Changes…Only" gives the frame: everything it does not name is unchanged, the operand ports and the host's script
included. This hardware has no memory (20_memory.md R51), so no statement speaks of one. -/

open Sys2Proof Sys2Proof.Machine

/-! ### Encoding -/

/-- Words of 95_test_vectors.md sections 2 and 3 decode to the commands they stand for there, one per row of the opcode
map, and the words V-C1, V-C3 to V-C8, V-C10 and V-M15 to none. -/
def Obligations.SpecWordsDecode : Prop :=
  decodeCmd 0x00000000 = .ok .nop ∧ decodeCmd 0x01000000 = .ok .decode ∧ decodeCmd 0x02000000 = .ok .hexdec ∧
  decodeCmd 0x03000000 = .ok .encode ∧ decodeCmd 0x08000000 = .ok .newfs ∧
  decodeCmd 0x090A0080 = .ok (.ldf .GXH 128) ∧ decodeCmd 0x0A110007 = .ok (.setf .BY 7) ∧
  decodeCmd 0x0B090000 = .ok (.rdf .IFMODE) ∧ decodeCmd 0x10070000 = .ok (.lumset .MAXLUM) ∧
  decodeCmd 0x11040000 = .ok (.lumget .MINLUM) ∧ decodeCmd 0x18010000 = .ok (.setl .DMV) ∧
  decodeCmd 0x19010000 = .ok (.getl .DMV) ∧ decodeCmd 0x1A020002 = .ok (.enuml .BLC 2) ∧
  decodeCmd 0x1B0D0001 = .ok (.setb .I10B444 true) ∧ decodeCmd 0x1C030000 = .ok (.getb .YUV12) ∧
  decodeCmd 0x20000000 = .ok .setp ∧
  (∀ w ∈ ([0x04000000, 0x00200000, 0x03000001, 0x03010000, 0x0B000001, 0x0A120000, 0x0A1F0000, 0x18000000, 0x1B020002] :
    List Word), ∀ i, decodeCmd w ≠ .ok i)

/-- R70 to R76, R80: every well-formed instruction, with every value of its operands, is read back from its word. -/
def Obligations.DecodeReadsBackEncode : Prop := ∀ i : Instr, i.wf = true → decodeCmd (encode i) = .ok i

/-- R74 to R76, R80: a word the decoder accepts is the word of the instruction it gives, so each instruction has one
spelling; and the instruction is well-formed. -/
def Obligations.DecodedWordIsTheEncoding : Prop :=
  ∀ (w : Word) (i : Instr), decodeCmd w = .ok i → encode i = w ∧ i.wf = true

/-- R74: "At most one row matches any word". -/
def Obligations.OpcodeRowsDisjoint : Prop :=
  ∀ (w : Word) (i j : Fin opcodeMap.length), (opcodeMap.get i).accepts w = true → (opcodeMap.get j).accepts w = true → i = j

/-- R73, R75, R77: the words without a command are exactly the reserved opcodes, the words with a non-zero required-zero
bit and the words with an inadmissible f; each raises IllegalCommand with FIELD 0 and changes nothing but STATUS. -/
def Obligations.RejectedWordsRaiseIllegalCommand : Prop :=
  (∀ w : Word, (∃ e, decodeCmd w = .error e) ↔ (OpReserved (wordOp w) ∨ RequiredZeroBroken w ∨ FieldInadmissible w)) ∧
  (∀ (w : Word) (s : State), OpReserved (wordOp w) ∨ RequiredZeroBroken w ∨ FieldInadmissible w →
    performWord w s = .next { s with status := 0x0006 })

/-- The model's choice for terms no word stands for (log 10): an instruction whose field has a class the opcode does not
admit raises IllegalCommand when it is run as it stands. -/
def Obligations.IllFormedInstructionsRaiseIllegalCommand : Prop :=
  ∀ (i : Instr) (s : State), i.wf = false → exec i s = .next { s with status := 0x0006 }

/-- R79, R80: what the host does for each line of one command: the operand port the line names is driven, then the one
word of the command is presented, with the field the mnemonic or the index names; and every presented word decodes. The
octets of a HEXDEC string with a character that is not ASCII are left open (log 19). -/
def Obligations.AssembledLinesPresentCommands : Prop :=
  assemble .nop = .ok [.command 0x00000000] ∧ assemble .encode = .ok [.command 0x03000000] ∧
  assemble .newfs = .ok [.command 0x08000000] ∧
  (∀ octets, assemble (.decode octets) = .ok [.drive (.din octets), .command 0x01000000]) ∧
  (∀ chars : String, (∀ c ∈ chars.toList, c.toNat < 128) → assemble (.hexdec chars) =
    .ok [.drive (.din (chars.toList.map fun c => BitVec.ofNat 8 c.toNat)), .command 0x02000000]) ∧
  (∀ n, assemble (.setp n) = .ok [.drive (.pnameIn n), .command 0x20000000]) ∧
  (∀ (r : FieldRef) (f : Sys2Proof.Field) (w : Word), r = .mnemonic f ∨ r = .index f.index.val →
    w = BitVec.ofNat 32 f.index.val <<< 16 →
    (∀ imm : ImmText, imm.value < 65536 →
      assemble (.ldf r imm) = .ok [.command (0x09000000 ||| w ||| BitVec.ofNat 32 imm.value)] ∧
      assemble (.setf r imm) = .ok [.command (0x0A000000 ||| w ||| BitVec.ofNat 32 imm.value)]) ∧
    assemble (.rdf r) = .ok [.command (0x0B000000 ||| w)] ∧
    (f.cls = .lum →
      (∀ x, assemble (.lumset r x) = .ok [.drive (.nitsIn x), .command (0x10000000 ||| w)]) ∧
      assemble (.lumget r) = .ok [.command (0x11000000 ||| w)]) ∧
    (f.cls = .enum ∨ f.cls = .bool →
      (∀ l, assemble (.setl r l) = .ok [.drive (.lblIn l), .command (0x18000000 ||| w)]) ∧
      assemble (.getl r) = .ok [.command (0x19000000 ||| w)] ∧
      (∀ k : ImmText, k.value < 65536 →
        assemble (.enuml r k) = .ok [.command (0x1A000000 ||| w ||| BitVec.ofNat 32 k.value)])) ∧
    (f.cls = .bool →
      (∀ b : ImmText, b.value < 2 → assemble (.setb r b) = .ok [.command (0x1B000000 ||| w ||| BitVec.ofNat 32 b.value)]) ∧
      assemble (.getb r) = .ok [.command (0x1C000000 ||| w)])) ∧
  (∀ line inputs w, assemble line = .ok inputs → HostInput.command w ∈ inputs → ∃ i, decodeCmd w = .ok i)

/-- R81: each pseudo-instruction assembles to its expansion, in order; that ROUNDTRIP takes any number of octets is the
model's choice (log 23). -/
def Obligations.PseudoLinesAssembleToTheirExpansion : Prop :=
  (∀ r, assemble (.clr r) = assemble (.setf r (.decimal 0))) ∧
  (∀ r, assemble (.setTrue r) = assemble (.setb r (.decimal 1))) ∧
  (∀ r, assemble (.setFalse r) = assemble (.setb r (.decimal 0))) ∧
  (∀ octets first second, assemble (.decode octets) = .ok first → assemble .encode = .ok second →
    assemble (.roundtrip octets) = .ok (first ++ second)) ∧
  (∀ chars first second, assemble (.hexdec chars) = .ok first → assemble .encode = .ok second →
    assemble (.hexrt chars) = .ok (first ++ second)) ∧
  (∀ chars e, assemble (.hexdec chars) = .error e → assemble (.hexrt chars) = .error e)

/-- R80, its last sentence: what the assembler refuses. A port operand of the wrong kind is no `SourceLine`. -/
def Obligations.AssemblerRefusals : Prop :=
  (∀ (r : FieldRef) (imm : ImmText) (inputs : List HostInput), 65536 ≤ imm.value →
    assemble (.ldf r imm) ≠ .ok inputs ∧ assemble (.setf r imm) ≠ .ok inputs ∧ assemble (.enuml r imm) ≠ .ok inputs) ∧
  (∀ (r : FieldRef) (b : ImmText) (inputs : List HostInput), 2 ≤ b.value → assemble (.setb r b) ≠ .ok inputs) ∧
  (∀ (n : Nat) (imm : ImmText) (inputs : List HostInput), 17 < n → assemble (.ldf (.index n) imm) ≠ .ok inputs ∧
    assemble (.setf (.index n) imm) ≠ .ok inputs ∧ assemble (.rdf (.index n)) ≠ .ok inputs) ∧
  (∀ (r : FieldRef) (x : Nits) (inputs : List HostInput),
    (∀ f : Sys2Proof.Field, r = .mnemonic f ∨ r = .index f.index.val → f.cls ≠ .lum) →
    assemble (.lumset r x) ≠ .ok inputs ∧ assemble (.lumget r) ≠ .ok inputs) ∧
  (∀ (r : FieldRef) (l : Label) (k : ImmText) (inputs : List HostInput),
    (∀ f : Sys2Proof.Field, r = .mnemonic f ∨ r = .index f.index.val → f.cls ≠ .enum ∧ f.cls ≠ .bool) →
    assemble (.setl r l) ≠ .ok inputs ∧ assemble (.getl r) ≠ .ok inputs ∧ assemble (.enuml r k) ≠ .ok inputs) ∧
  (∀ (r : FieldRef) (b : ImmText) (inputs : List HostInput),
    (∀ f : Sys2Proof.Field, r = .mnemonic f ∨ r = .index f.index.val → f.cls ≠ .bool) →
    assemble (.setb r b) ≠ .ok inputs ∧ assemble (.getb r) ≠ .ok inputs)

/-! ### One step -/

/-- A step runs the decoded command: where the host's next input is a command word that decodes to i, step is exec of i
at the state whose script has that input removed (log 1); and withFetchWord puts its word there. -/
def Obligations.StepRunsDecodedCommand : Prop :=
  (∀ (s : State) (w : Word) (rest : List HostInput) (i : Instr), s.host = .command w :: rest → decodeCmd w = .ok i →
    step s = exec i { s with host := rest }) ∧
  (∀ (s : State) (nbits w : Nat) (i : Instr), decodeTableWord nbits w = some i → step (s.withFetchWord nbits w) = exec i s)

/-- R34, R35, R235 and the model's script (log 1): with nothing to do the block stays as it is; a driven port takes its
value and nothing else changes; octets beyond DIN_MAX are refused (I14). -/
def Obligations.StepTakesHostInputs : Prop :=
  ∀ (s : State) (rest : List HostInput),
    (s.host = [] → step s = .next s) ∧
    (∀ octets, s.host = .drive (.din octets) :: rest →
      (octets.length ≤ 255 → step s = .next { s with host := rest, din := octets }) ∧
      (255 < octets.length → step s = .refused (.dinTooLong octets.length))) ∧
    (∀ l, s.host = .drive (.lblIn l) :: rest → step s = .next { s with host := rest, lblIn := l }) ∧
    (∀ x, s.host = .drive (.nitsIn x) :: rest → step s = .next { s with host := rest, nitsIn := x }) ∧
    (∀ n, s.host = .drive (.pnameIn n) :: rest → step s = .next { s with host := rest, pnameIn := n })

/-- R40, R230: after reset every field register is 0, no output register holds a value and STATUS is 0; the reset event
gives every piece of the block's state that value from any state. -/
def Obligations.ResetValues : Prop :=
  (∀ f, State.reset.field f = 0) ∧ State.reset.recOut = .noValue ∧ State.reset.result = .noValue ∧
  State.reset.nitsOut = .noValue ∧ State.reset.labelOut = .noValue ∧ State.reset.status = 0x0000 ∧
  (∀ (s : State) (rest : List HostInput), s.host = .reset :: rest →
    ∃ t, step s = .next t ∧ (∀ f, t.field f = 0) ∧ t.recOut = .noValue ∧ t.result = .noValue ∧
      t.nitsOut = .noValue ∧ t.labelOut = .noValue ∧ t.status = 0x0000)

/-- The model's reading of R35 and R235 (log 9): the reset event leaves the operand ports, and what the host does next. -/
def Obligations.ResetLeavesPorts : Prop :=
  ∀ (s : State) (rest : List HostInput), s.host = .reset :: rest →
    ∃ t, step s = .next t ∧ t.din = s.din ∧ t.lblIn = s.lblIn ∧ t.nitsIn = s.nitsIn ∧ t.pnameIn = s.pnameIn ∧ t.host = rest

/-- R31: a valid bit is 0 from reset until a command that writes its register, is cleared by nothing but reset, and a
host read of a register whose valid bit is 0 host read of a register whose valid bit is 0 gives no value: the read is a fault (log 7). A command that raises leaves
every output register unchanged. That a read is a step that takes its input off the script is the model's (logs 1, 16);
that every other read goes on and changes nothing is R58, which the spec derives; the byte and hex views are R27, R104. -/
def Obligations.ValidBitsAndHostReads : Prop :=
  (State.reset.recOut.valid = false ∧ State.reset.result.valid = false ∧ State.reset.nitsOut.valid = false ∧
    State.reset.labelOut.valid = false) ∧
  (∀ s t : State, step s = .next t → s.host.head? ≠ some .reset →
    (s.recOut.valid = true → t.recOut.valid = true) ∧ (s.result.valid = true → t.result.valid = true) ∧
    (s.nitsOut.valid = true → t.nitsOut.valid = true) ∧ (s.labelOut.valid = true → t.labelOut.valid = true)) ∧
  (∀ s t : State, step s = .next t →
    (s.recOut.valid = false → t.recOut.valid = true → ∃ w, s.host.head? = some (.command w) ∧ decodeCmd w = .ok .encode) ∧
    (s.result.valid = false → t.result.valid = true → ∃ w f, s.host.head? = some (.command w) ∧
      (decodeCmd w = .ok (.rdf f) ∨ (∃ k, decodeCmd w = .ok (.enuml f k)) ∨ decodeCmd w = .ok (.getb f))) ∧
    (s.nitsOut.valid = false → t.nitsOut.valid = true →
      ∃ w f, s.host.head? = some (.command w) ∧ decodeCmd w = .ok (.lumget f)) ∧
    (s.labelOut.valid = false → t.labelOut.valid = true → ∃ w f, s.host.head? = some (.command w) ∧
      (decodeCmd w = .ok (.getl f) ∨ ∃ k, decodeCmd w = .ok (.enuml f k)))) ∧
  (∀ (s : State) (rest : List HostInput) (p : ReadPort), s.host = .read p :: rest →
    step s =
      match p with
      | .value .recOut => if s.recOut.valid then .next { s with host := rest } else .fault (.readOfNoValue p)
      | .value .result => if s.result.valid then .next { s with host := rest } else .fault (.readOfNoValue p)
      | .value .nitsOut => if s.nitsOut.valid then .next { s with host := rest } else .fault (.readOfNoValue p)
      | .value .labelOut => if s.labelOut.valid then .next { s with host := rest } else .fault (.readOfNoValue p)
      | .recBytes => if s.recOut.valid then .next { s with host := rest } else .fault (.readOfNoValue p)
      | .hexOut => if s.recOut.valid then .next { s with host := rest } else .fault (.readOfNoValue p)
      | .valid _ => .next { s with host := rest }
      | .status => .next { s with host := rest }) ∧
  (∀ (w : Word) (s t : State), performWord w s = .next t → statusErr t.status ≠ 0 →
    t.recOut = s.recOut ∧ t.result = s.result ∧ t.nitsOut = s.nitsOut ∧ t.labelOut = s.labelOut)

/-- R15, R27: what a host read gives: the value an output register holds, REC_OUT also as its 7 bytes, nothing while it
holds none; every valid bit; STATUS. HEX_OUT has its own statement. That what a read gives is a function of the state is
the model's choice (log 16). -/
def Obligations.HostReadsGiveTheRegisters : Prop :=
  ∀ s : State,
    (∀ r, s.recOut = .holds r → observe (.value .recOut) s = some (.record r) ∧
      ∃ bs, observe .recBytes s = some (.bytes bs) ∧ bs.length = 7 ∧ ∀ i < 7, bs.getD i 0 = r.extractLsb' (48 - 8 * i) 8) ∧
    (∀ v, s.result = .holds v → observe (.value .result) s = some (.value v)) ∧
    (∀ x, s.nitsOut = .holds x → observe (.value .nitsOut) s = some (.nits x)) ∧
    (∀ l, s.labelOut = .holds l → observe (.value .labelOut) s = some (.label l)) ∧
    (s.recOut.valid = false → observe (.value .recOut) s = none ∧ observe .recBytes s = none) ∧
    (s.result.valid = false → observe (.value .result) s = none) ∧
    (s.nitsOut.valid = false → observe (.value .nitsOut) s = none) ∧
    (s.labelOut.valid = false → observe (.value .labelOut) s = none) ∧
    observe (.valid .recOut) s = some (.bit s.recOut.valid) ∧ observe (.valid .result) s = some (.bit s.result.valid) ∧
    observe (.valid .nitsOut) s = some (.bit s.nitsOut.valid) ∧
    observe (.valid .labelOut) s = some (.bit s.labelOut.valid) ∧ observe .status s = some (.status s.status)

/-! ### The record codec -/

/-- R100: DECODE. -/
def Obligations.DecodeCommand : Prop :=
  (∀ w : Word, decodeCmd w = .ok .decode ↔ w = 0x01000000) ∧
  (∀ s : State, s.din.length ≠ 7 → exec .decode s = .next { s with status := 0x0001 }) ∧
  (∀ (s : State) (b0 b1 b2 b3 b4 b5 b6 : Byte), s.din = [b0, b1, b2, b3, b4, b5, b6] →
    ∃ t, exec .decode s = .next t ∧ t.status = 0x0000 ∧ ChangesFieldsOnly s t ∧
      ∀ f : Sys2Proof.Field, t.field f =
        ((b0 ++ b1 ++ b2 ++ b3 ++ b4 ++ b5 ++ b6 : Record).extractLsb' f.lo (f.hi - f.lo + 1)).setWidth 16)

/-- R102: HEXDEC, with the digits of R103. -/
def Obligations.HexdecCommand : Prop :=
  (∀ c : Byte, hexval c =
    if 0x30 ≤ c ∧ c ≤ 0x39 then some ((c - 0x30).setWidth 4)
    else if 0x41 ≤ c ∧ c ≤ 0x46 then some ((c - 0x37).setWidth 4)
    else if 0x61 ≤ c ∧ c ≤ 0x66 then some ((c - 0x57).setWidth 4)
    else none) ∧
  (∀ w : Word, decodeCmd w = .ok .hexdec ↔ w = 0x02000000) ∧
  (∀ s : State, s.din.length ≠ 14 → exec .hexdec s = .next { s with status := 0x0001 }) ∧
  (∀ (s : State) (i : Nat), s.din.length = 14 → i < 14 → hexval (s.din.getD i 0) = none →
    (∀ j < i, hexval (s.din.getD j 0) ≠ none) → exec .hexdec s = .next { s with status := errorStatus 2 i }) ∧
  (∀ (s : State) (d : Fin 14 → BitVec 4), s.din.length = 14 → (∀ i, hexval (s.din.getD i.val 0) = some (d i)) →
    ∃ t, exec .hexdec s = .next t ∧ t.status = 0x0000 ∧ ChangesFieldsOnly s t ∧
      ∀ f : Sys2Proof.Field, t.field f =
        ((d 0 ++ d 1 ++ d 2 ++ d 3 ++ d 4 ++ d 5 ++ d 6 ++ d 7 ++ d 8 ++ d 9 ++ d 10 ++ d 11 ++ d 12 ++ d 13 :
          Record).extractLsb' f.lo (f.hi - f.lo + 1)).setWidth 16)

/-- R105 and R106: ENCODE. -/
def Obligations.EncodeCommand : Prop :=
  (∀ w : Word, decodeCmd w = .ok .encode ↔ w = 0x03000000) ∧
  (∀ (s : State) (f : Sys2Proof.Field), 2 ^ f.width ≤ (s.field f).toNat →
    (∀ g : Sys2Proof.Field, g.index < f.index → (s.field g).toNat < 2 ^ g.width) →
    exec .encode s = .next { s with status := errorStatus 3 f.index.val }) ∧
  (∀ s : State, (∀ f : Sys2Proof.Field, (s.field f).toNat < 2 ^ f.width) →
    ∃ t r, exec .encode s = .next t ∧ t.recOut = .holds r ∧ t.status = 0x0000 ∧ ChangesRecOutOnly s t ∧
      ∀ f : Sys2Proof.Field, (r.extractLsb' f.lo (f.hi - f.lo + 1)).setWidth 16 = s.field f)

/-- R101: unpack is the zero-extended slice HI(f):LO(f) of the record; its other form, a shift and a mask of the field's
byte, agrees; and its value is always in width. -/
def Obligations.UnpackIsShiftAndMask : Prop :=
  ∀ (b0 b1 b2 b3 b4 b5 b6 : Byte) (f : Sys2Proof.Field),
    unpack (b0 ++ b1 ++ b2 ++ b3 ++ b4 ++ b5 ++ b6) f =
      ((b0 ++ b1 ++ b2 ++ b3 ++ b4 ++ b5 ++ b6 : Record).extractLsb' f.lo (f.hi - f.lo + 1)).setWidth 16 ∧
    unpack (b0 ++ b1 ++ b2 ++ b3 ++ b4 ++ b5 ++ b6) f =
      ((([b0, b1, b2, b3, b4, b5, b6].getD f.byteNo 0) >>> f.byteLo).setWidth 16 &&& BitVec.ofNat 16 (2 ^ f.width - 1)) ∧
    (unpack (b0 ++ b1 ++ b2 ++ b3 ++ b4 ++ b5 ++ b6) f).toNat < 2 ^ f.width

/-- R106: each field lands in its own bits, truncated to its width, and every bit of the result is a bit of exactly one
field. -/
def Obligations.PackPlacesEachField : Prop :=
  (∀ (fs : FieldSet) (f : Sys2Proof.Field),
    (pack fs).extractLsb' f.lo f.width = (fs.get f.index).setWidth f.width) ∧
  (∀ (fs : FieldSet) (k : Nat), k < 56 → ∃! f : Sys2Proof.Field,
    f.lo ≤ k ∧ k ≤ f.hi ∧ (pack fs).getLsbD k = (fs.get f.index).getLsbD (k - f.lo))

/-- R27, R104: HEX_OUT is seen only while REC_OUT.V is 1; it is 14 lowercase ASCII characters, two per byte, high nibble
first, and read as a wire string it spells the record. -/
def Obligations.HexOutSpellsTheRecord : Prop :=
  (∀ s : State, s.recOut.valid = false → observe .hexOut s = none) ∧
  (∀ (s : State) (r : Record), s.recOut = .holds r →
    ∃ cs, observe .hexOut s = some (.chars cs) ∧ cs.length = 14 ∧
      (∀ i < 7, ∀ b : Byte, b = r.extractLsb' (48 - 8 * i) 8 →
        hexval (cs.getD (2 * i) 0) = some (b.extractLsb' 4 4) ∧ hexval (cs.getD (2 * i + 1) 0) = some (b.extractLsb' 0 4)) ∧
      (∀ c ∈ cs, ¬ (0x41 ≤ c ∧ c ≤ 0x46)) ∧ recordOfHex cs = r)

/-- C4: decoding the same record from its octets or from a wire string gives the same Field Set. -/
def Obligations.DecodeAndHexdecAgree : Prop :=
  ∀ (s u : State) (r : Record), s.din = recordBytes r → u.din.length = 14 →
    (∀ i < 7, hexval (u.din.getD (2 * i) 0) = some ((recordByte r i).extractLsb' 4 4) ∧
      hexval (u.din.getD (2 * i + 1) 0) = some ((recordByte r i).extractLsb' 0 4)) →
    ∃ t v, exec .decode s = .next t ∧ exec .hexdec u = .next v ∧ t.fs = v.fs ∧ t.status = 0x0000 ∧ v.status = 0x0000

/-- R107: for every record, DECODE of its bytes and then ENCODE leaves it in REC_OUT; the same for HEXDEC of any spelling
of it. -/
def Obligations.RecordRoundTrip : Prop :=
  (∀ (s : State) (r : Record), s.din = recordBytes r →
    ∃ t u, exec .decode s = .next t ∧ exec .encode t = .next u ∧ u.recOut = .holds r ∧ u.status = 0x0000) ∧
  (∀ (s : State) (r : Record), s.din.length = 14 →
    (∀ i < 7, hexval (s.din.getD (2 * i) 0) = some ((recordByte r i).extractLsb' 4 4) ∧
      hexval (s.din.getD (2 * i + 1) 0) = some ((recordByte r i).extractLsb' 0 4)) →
    ∃ t u, exec .hexdec s = .next t ∧ exec .encode t = .next u ∧ u.recOut = .holds r ∧ u.status = 0x0000)

/-- R108: from a Field Set in width, ENCODE and then DECODE of the bytes of REC_OUT leaves every field as it was. -/
def Obligations.FieldSetRoundTrip : Prop :=
  ∀ s : State, InWidth s → ∃ t r u, exec .encode s = .next t ∧ t.recOut = .holds r ∧
    exec .decode { t with din := recordBytes r } = .next u ∧ u.fs = s.fs ∧ u.status = 0x0000

/-- R25: the reserved bit. DECODE and HEXDEC load it from record bit 34, ENCODE stores it there, NEWFS clears it, LDF and
SETF of RSVD set it, no other command changes it; and its value makes no difference to any command but ENCODE and RDF
RSVD, which copy it. -/
def Obligations.ReservedBitPassesThrough : Prop :=
  (∀ s t : State, s.din.length = 7 → exec .decode s = .next t →
    t.field .RSVD = (BitVec.ofBool ((recordOfOctets s.din).getLsbD 34)).setWidth 16) ∧
  (∀ s t : State, s.din.length = 14 → exec .hexdec s = .next t → t.status = 0x0000 →
    t.field .RSVD = (BitVec.ofBool ((recordOfHex s.din).getLsbD 34)).setWidth 16) ∧
  (∀ (s t : State) (r : Record), exec .encode s = .next t → statusErr t.status = 0 → t.recOut = .holds r →
    s.field .RSVD = (BitVec.ofBool (r.getLsbD 34)).setWidth 16) ∧
  (∀ s t : State, exec .newfs s = .next t → t.field .RSVD = 0) ∧
  (∀ (s : State) (v : RegVal), ∃ t, exec (.ldf .RSVD v) s = .next t ∧ t.field .RSVD = v) ∧
  (∀ (s : State) (v : RegVal), v.toNat < 2 → ∃ t, exec (.setf .RSVD v) s = .next t ∧ t.field .RSVD = v) ∧
  (∀ (i : Instr) (s t : State), ¬ MayChangeRsvd i s → exec i s = .next t → t.field .RSVD = s.field .RSVD) ∧
  (∀ (i : Instr) (s t : State) (v : RegVal), i ≠ .encode → i ≠ .rdf .RSVD → exec i s = .next t →
    exec i (s.setField .RSVD v) = .next t ∨ exec i (s.setField .RSVD v) = .next (t.setField .RSVD v))

/-- R109: after DECODE of a record r, whatever the host does in between except what can change FS[8] (and the reset
event), an ENCODE that succeeds gives a record with bit 34 of r. -/
def Obligations.ReservedBitSurvivesToEncode : Prop :=
  ∀ (s s1 u t : State) (r : Record) (rest rest' : List HostInput) (k : Nat),
    s.host = .command 0x01000000 :: rest → s.din = recordBytes r → step s = .next s1 →
    (∀ j < k, ∀ v, Sys2Proof.core.run j s1 = .next v → NextInputKeepsRsvd v) →
    Sys2Proof.core.run k s1 = .next u → u.host = .command 0x03000000 :: rest' → step u = .next t →
    statusErr t.status = 0 → ∃ r', t.recOut = .holds r' ∧ r'.getLsbD 34 = r.getLsbD 34

/-- R25, R109 step by step: a step that takes no reset event and none of the commands R109 excepts leaves RSVD. What the
host does next is the model's script (log 1). -/
def Obligations.ReservedBitKeptByStep : Prop :=
  ∀ s t : State, NextInputKeepsRsvd s → step s = .next t → t.field .RSVD = s.field .RSVD

/-- R232: ENCODE directly after reset succeeds and gives the record 0. -/
def Obligations.EncodeAfterReset : Prop :=
  ∃ t, step (State.reset.withFetchWord 32 0x03000000) = .next t ∧ t.recOut = .holds 0 ∧ t.status = 0x0000 ∧
    t.fs = State.reset.fs

/-! ### Field access -/

/-- R120: NOP, and its corner case: every other command, in some state, does something else than setting STATUS to 0. -/
def Obligations.NopCommand : Prop :=
  (∀ w : Word, decodeCmd w = .ok .nop ↔ w = 0x00000000) ∧
  (∀ w : Word, wordOp w = 0x00 → w ≠ 0x00000000 → ∀ s : State, performWord w s = .next { s with status := 0x0006 }) ∧
  (∀ s : State, exec .nop s = .next { s with status := 0x0000 }) ∧
  (∀ i : Instr, i ≠ .nop → ∃ s : State, exec i s ≠ .next { s with status := 0x0000 })

/-- R121: NEWFS. -/
def Obligations.NewfsCommand : Prop :=
  (∀ w : Word, decodeCmd w = .ok .newfs ↔ w = 0x08000000) ∧
  (∀ s : State, ∃ t, exec .newfs s = .next t ∧ (∀ f, t.field f = 0) ∧ t.status = 0x0000 ∧ ChangesFieldsOnly s t)

/-- R122: LDF, and what a value it stores that does not fit makes ENCODE, LUMGET, GETL and GETB of that field do. -/
def Obligations.LdfCommand : Prop :=
  (∀ (w : Word) (f : Sys2Proof.Field) (imm : RegVal), decodeCmd w = .ok (.ldf f imm) ↔
    w = 0x09000000 ||| (BitVec.ofNat 32 f.index.val <<< 16) ||| imm.setWidth 32) ∧
  (∀ w : Word, wordOp w = 0x09 → (17 < (wordF w).toNat ∨ wordZ w ≠ 0) →
    ∀ s : State, performWord w s = .next { s with status := 0x0006 }) ∧
  (∀ (f : Sys2Proof.Field) (imm : RegVal) (s : State), ∃ t, exec (.ldf f imm) s = .next t ∧ t.field f = imm ∧
    t.status = 0x0000 ∧ ChangesFieldOnly f s t) ∧
  (∀ (f : Sys2Proof.Field) (imm : RegVal) (s : State), 2 ^ f.width ≤ imm.toNat →
    ∃ t u, exec (.ldf f imm) s = .next t ∧ exec .encode t = .next u ∧ statusErr u.status = 3 ∧
      ∀ i ∈ [Instr.lumget f, Instr.getl f, Instr.getb f], i.wf = true →
        exec i t = .next { t with status := errorStatus 3 f.index.val })

/-- R124: SETF. -/
def Obligations.SetfCommand : Prop :=
  (∀ (w : Word) (f : Sys2Proof.Field) (imm : RegVal), decodeCmd w = .ok (.setf f imm) ↔
    w = 0x0A000000 ||| (BitVec.ofNat 32 f.index.val <<< 16) ||| imm.setWidth 32) ∧
  (∀ w : Word, wordOp w = 0x0A → (17 < (wordF w).toNat ∨ wordZ w ≠ 0) →
    ∀ s : State, performWord w s = .next { s with status := 0x0006 }) ∧
  (∀ (f : Sys2Proof.Field) (imm : RegVal) (s : State),
    (2 ^ f.width ≤ imm.toNat → exec (.setf f imm) s = .next { s with status := errorStatus 3 f.index.val }) ∧
    (imm.toNat < 2 ^ f.width → ∃ t, exec (.setf f imm) s = .next t ∧ t.field f = imm ∧ t.status = 0x0000 ∧
      ChangesFieldOnly f s t))

/-- R123: RDF. -/
def Obligations.RdfCommand : Prop :=
  (∀ (w : Word) (f : Sys2Proof.Field), decodeCmd w = .ok (.rdf f) ↔
    w = 0x0B000000 ||| (BitVec.ofNat 32 f.index.val <<< 16)) ∧
  (∀ w : Word, wordOp w = 0x0B → (17 < (wordF w).toNat ∨ wordImm w ≠ 0 ∨ wordZ w ≠ 0) →
    ∀ s : State, performWord w s = .next { s with status := 0x0006 }) ∧
  (∀ (f : Sys2Proof.Field) (s : State),
    exec (.rdf f) s = .next { s with result := .holds (s.field f), status := 0x0000 })

/-- R24: a register may hold any value, but only LDF can put one there that does not fit; such a value makes ENCODE and
the reads through the mappers raise FieldOverflow, and never makes RDF or SETF fail. -/
def Obligations.OnlyLdfStoresOverflowingValues : Prop :=
  (∀ (f : Sys2Proof.Field) (v : RegVal) (s : State), ∃ t, exec (.ldf f v) s = .next t ∧ t.field f = v) ∧
  (∀ (i : Instr) (s t : State), (∀ f v, i ≠ .ldf f v) → exec i s = .next t →
    ∀ g : Sys2Proof.Field, t.field g = s.field g ∨ (t.field g).toNat < 2 ^ g.width) ∧
  (∀ (f : Sys2Proof.Field) (s : State), 2 ^ f.width ≤ (s.field f).toNat →
    (∃ t, exec .encode s = .next t ∧ statusErr t.status = 3) ∧
    (∀ i ∈ [Instr.lumget f, Instr.getl f, Instr.getb f], i.wf = true →
      exec i s = .next { s with status := errorStatus 3 f.index.val }) ∧
    (∃ t, exec (.rdf f) s = .next t ∧ t.status = 0x0000) ∧
    (∀ imm : RegVal, imm.toNat < 2 ^ f.width → ∃ t, exec (.setf f imm) s = .next t ∧ t.status = 0x0000))

/-! ### Luminance -/

/-- R142: nearest gives an entry at the least distance, the lowest such index; and on a strictly increasing table it is
the closed form of the rule. -/
def Obligations.NearestIsLowestClosest : Prop :=
  ∀ (T : LumTable) (x : Nits),
    (∀ j, |T (nearest T x) - x| ≤ |T j - x|) ∧
    (∀ j, j < nearest T x → |T (nearest T x) - x| < |T j - x|) ∧
    ((∀ i : Fin 31, T i.castSucc < T i.succ) →
      (x ≤ T 0 → nearest T x = 0) ∧ (T 31 ≤ x → nearest T x = 31) ∧
      (∀ i : Fin 31, T i.castSucc ≤ x → x < T i.succ →
        nearest T x = if x - T i.castSucc ≤ T i.succ - x then i.castSucc else i.succ))

/-- R140, R143: LUMSET. -/
def Obligations.LumsetCommand : Prop :=
  (∀ (w : Word) (f : Sys2Proof.Field), decodeCmd w = .ok (.lumset f) ↔
    (f = .MINLUM ∨ f = .MAXLUM) ∧ w = 0x10000000 ||| (BitVec.ofNat 32 f.index.val <<< 16)) ∧
  (∀ w : Word, wordOp w = 0x10 → ((wordF w).toNat ∉ [4, 7] ∨ wordImm w ≠ 0 ∨ wordZ w ≠ 0) →
    ∀ s : State, performWord w s = .next { s with status := 0x0006 }) ∧
  (∀ (f : Sys2Proof.Field) (T : LumTable) (s : State),
    (f = .MINLUM ∧ T = Config.minLumTable) ∨ (f = .MAXLUM ∧ T = Config.maxLumTable) →
    ∃ t, exec (.lumset f) s = .next t ∧ ChangesFieldOnly f s t ∧ ∃ idx : Fin 32,
      t.field f = BitVec.ofNat 16 idx.val ∧
      (∀ j, |T idx - s.nitsIn| ≤ |T j - s.nitsIn|) ∧ (∀ j, j < idx → |T idx - s.nitsIn| < |T j - s.nitsIn|) ∧
      t.status = if T idx = s.nitsIn then 0x0000 else 0x0100)

/-- R140, R144: LUMGET. -/
def Obligations.LumgetCommand : Prop :=
  (∀ (w : Word) (f : Sys2Proof.Field), decodeCmd w = .ok (.lumget f) ↔
    (f = .MINLUM ∨ f = .MAXLUM) ∧ w = 0x11000000 ||| (BitVec.ofNat 32 f.index.val <<< 16)) ∧
  (∀ w : Word, wordOp w = 0x11 → ((wordF w).toNat ∉ [4, 7] ∨ wordImm w ≠ 0 ∨ wordZ w ≠ 0) →
    ∀ s : State, performWord w s = .next { s with status := 0x0006 }) ∧
  (∀ (f : Sys2Proof.Field) (T : LumTable) (s : State),
    (f = .MINLUM ∧ T = Config.minLumTable) ∨ (f = .MAXLUM ∧ T = Config.maxLumTable) →
    (32 ≤ (s.field f).toNat → exec (.lumget f) s = .next { s with status := errorStatus 3 f.index.val }) ∧
    (∀ i : Fin 32, (s.field f).toNat = i.val →
      exec (.lumget f) s = .next { s with nitsOut := .holds (T i), status := 0x0000 }))

/-- R140, R141 (b) and (d): which field has which luminance table, and what the spec fixes of the two tables; then R145:
the laws of the lookup, (a) to (d). -/
def Obligations.LookupLaws : Prop :=
  (∀ (f : Sys2Proof.Field) (T : LumTable), lumTable f = some T ↔
    (f = .MINLUM ∧ T = Config.minLumTable) ∨ (f = .MAXLUM ∧ T = Config.maxLumTable)) ∧
  (∀ i : Fin 31, Config.minLumTable i.castSucc < Config.minLumTable i.succ ∧
    Config.maxLumTable i.castSucc < Config.maxLumTable i.succ) ∧
  Config.minLumTable 0 = 0 ∧ Config.minLumTable 31 = 1048 / 1000 ∧ Config.maxLumTable 0 = 97 ∧ Config.maxLumTable 31 = 10000 ∧
  (∀ (f : Sys2Proof.Field) (T : LumTable) (i : Fin 32) (s : State), lumTable f = some T → s.nitsIn = T i →
    ∃ t, exec (.lumset f) s = .next t ∧ t.field f = BitVec.ofNat 16 i.val ∧ statusApprox t.status = false) ∧
  (∀ (f : Sys2Proof.Field) (T : LumTable) (s : State), lumTable f = some T →
    ∃ t u, exec (.lumset f) s = .next t ∧ exec (.lumget f) t = .next u ∧
      u.nitsOut = .holds (T (nearest T s.nitsIn)) ∧
      (statusApprox t.status = false ↔ u.nitsOut = .holds s.nitsIn)) ∧
  (∀ (f : Sys2Proof.Field) (T : LumTable) (x y : Nits), lumTable f = some T → x ≤ y → nearest T x ≤ nearest T y) ∧
  (∀ (f : Sys2Proof.Field) (T : LumTable) (i : Fin 32) (s : State), lumTable f = some T →
    ∃ t u v, exec (.setf f (BitVec.ofNat 16 i.val)) s = .next t ∧ exec (.lumget f) t = .next u ∧
      u.nitsOut = .holds (T i) ∧ exec (.lumset f) { u with nitsIn := T i } = .next v ∧
      v.field f = BitVec.ofNat 16 i.val)

/-! ### Labels, booleans, presets -/

/-- R166, R167: over any table that meets R160 the two maps are inverse to each other, the first total, the second
failing exactly on labels without an entry. -/
def Obligations.LabelMapsAreInverse : Prop :=
  ∀ (width : Nat) (lt : LabelTable), LabelTableOk width lt → ∀ (l : Label) (c : RegVal),
    (codeToLabel lt c = .label l ↔ (⟨l, c⟩ : LabelEntry) ∈ lt) ∧
    (codeToLabel lt c = .unrecognized ↔ ∀ e ∈ lt, e.code ≠ c) ∧
    (labelToCode lt l = some c ↔ (⟨l, c⟩ : LabelEntry) ∈ lt) ∧
    (labelToCode lt l = none ↔ ∀ e ∈ lt, e.label ≠ l)

/-- R160 to R163, R165 and the codes of R164: which field has which label table, what LT_BOOL is, and what the spec fixes
of the three OPEN tables. A word that names any other field for SETL, GETL or ENUML raises IllegalCommand. -/
def Obligations.LabelTables : Prop :=
  (∀ (f : Sys2Proof.Field) (lt : LabelTable), labelTable f = some lt ↔ LabelTableOf f lt) ∧
  (∀ (f : Sys2Proof.Field) (lt : LabelTable), LabelTableOf f lt → (lt.map LabelEntryIn.label).Nodup ∧
    (lt.map LabelEntryIn.code).Nodup ∧ ∀ e ∈ lt, e.code.toNat < 2 ^ f.width) ∧
  (Config.ltDmv.length = 3 ∧ (⟨.fourX, 2⟩ : LabelEntry) ∈ Config.ltDmv ∧
    (Config.ltDmv.map fun e => e.code.toNat).Pairwise (· < ·)) ∧
  Config.ltBlmin.map LabelEntryIn.code = [0, 1, 2, 3] ∧ Config.ltIfmode.map LabelEntryIn.code = [0, 1, 2, 3] ∧
  (∀ (w : Word) (s : State), wordOp w ∈ ([0x18, 0x19, 0x1A] : List (BitVec 8)) →
    (wordF w).toNat ∉ [1, 2, 3, 5, 6, 9, 11, 13] → performWord w s = .next { s with status := 0x0006 })

/-- R168: SETL, with its example "4.x" of LT_DMV (R163). -/
def Obligations.SetlCommand : Prop :=
  (∀ (w : Word) (f : Sys2Proof.Field), decodeCmd w = .ok (.setl f) ↔
    (f.cls = .enum ∨ f.cls = .bool) ∧ w = 0x18000000 ||| (BitVec.ofNat 32 f.index.val <<< 16)) ∧
  (∀ w : Word, wordOp w = 0x18 → ((wordF w).toNat ∉ [1, 2, 3, 5, 6, 9, 11, 13] ∨ wordImm w ≠ 0 ∨ wordZ w ≠ 0) →
    ∀ s : State, performWord w s = .next { s with status := 0x0006 }) ∧
  (∀ (f : Sys2Proof.Field) (lt : LabelTable) (s : State), LabelTableOf f lt →
    (∀ e ∈ lt, s.lblIn = e.label →
      ∃ t, exec (.setl f) s = .next t ∧ t.field f = e.code ∧ e.code.toNat < 2 ^ f.width ∧ t.status = 0x0000 ∧
        ChangesFieldOnly f s t) ∧
    ((∀ e ∈ lt, e.label ≠ s.lblIn) → exec (.setl f) s = .next { s with status := 0x0004 })) ∧
  (∀ s : State, s.lblIn = .fourX → ∃ t, exec (.setl .DMV) s = .next t ∧ t.field .DMV = 2 ∧ t.status = 0x0000)

/-- R169: GETL. -/
def Obligations.GetlCommand : Prop :=
  (∀ (w : Word) (f : Sys2Proof.Field), decodeCmd w = .ok (.getl f) ↔
    (f.cls = .enum ∨ f.cls = .bool) ∧ w = 0x19000000 ||| (BitVec.ofNat 32 f.index.val <<< 16)) ∧
  (∀ w : Word, wordOp w = 0x19 → ((wordF w).toNat ∉ [1, 2, 3, 5, 6, 9, 11, 13] ∨ wordImm w ≠ 0 ∨ wordZ w ≠ 0) →
    ∀ s : State, performWord w s = .next { s with status := 0x0006 }) ∧
  (∀ (f : Sys2Proof.Field) (lt : LabelTable) (s : State), LabelTableOf f lt →
    (2 ^ f.width ≤ (s.field f).toNat → exec (.getl f) s = .next { s with status := errorStatus 3 f.index.val }) ∧
    ((s.field f).toNat < 2 ^ f.width →
      (∀ e ∈ lt, e.code = s.field f →
        exec (.getl f) s = .next { s with labelOut := .holds (.label e.label), status := 0x0000 }) ∧
      ((∀ e ∈ lt, e.code ≠ s.field f) →
        exec (.getl f) s = .next { s with labelOut := .holds .unrecognized, status := 0x0200 })))

/-- R169, corner cases: no in-width code of BLMIN, IFMODE or a boolean-like field is unrecognized, and exactly five of
DMV's eight are. -/
def Obligations.UnrecognizedCodes : Prop :=
  (∀ (f : Sys2Proof.Field) (lt : LabelTable) (c : RegVal), f ≠ .DMV → labelTable f = some lt → c.toNat < 2 ^ f.width →
    codeToLabel lt c ≠ .unrecognized) ∧
  ((List.range 8).filter fun n => decide (codeToLabel Config.ltDmv (BitVec.ofNat 16 n) = .unrecognized)).length = 5

/-- R170: ENUML. -/
def Obligations.EnumlCommand : Prop :=
  (∀ (w : Word) (f : Sys2Proof.Field) (k : RegVal), decodeCmd w = .ok (.enuml f k) ↔
    (f.cls = .enum ∨ f.cls = .bool) ∧ w = 0x1A000000 ||| (BitVec.ofNat 32 f.index.val <<< 16) ||| k.setWidth 32) ∧
  (∀ w : Word, wordOp w = 0x1A → ((wordF w).toNat ∉ [1, 2, 3, 5, 6, 9, 11, 13] ∨ wordZ w ≠ 0) →
    ∀ s : State, performWord w s = .next { s with status := 0x0006 }) ∧
  (∀ (f : Sys2Proof.Field) (lt : LabelTable) (k : RegVal) (s : State), LabelTableOf f lt →
    (∀ h : k.toNat < lt.length, exec (.enuml f k) s =
      .next { s with labelOut := .holds (.label lt[k.toNat].label), result := .holds lt[k.toNat].code, status := 0x0000 }) ∧
    (lt.length ≤ k.toNat → exec (.enuml f k) s = .next { s with status := 0x0400 })) ∧
  (∀ (f : Sys2Proof.Field) (lt : LabelTable), LabelTableOf f lt →
    lt.length = if f = .DMV then 3 else if f.cls = .enum then 4 else 2)

/-- R170, corner cases: a label ENUML gives is accepted by SETL of the same field, which writes the code ENUML gave. -/
def Obligations.EnumeratedLabelsAreAccepted : Prop :=
  ∀ (f : Sys2Proof.Field) (k : RegVal) (s t : State) (l : Label), exec (.enuml f k) s = .next t →
    t.status = 0x0000 → t.labelOut = .holds (.label l) →
    ∃ u, exec (.setl f) { t with lblIn := l } = .next u ∧ u.status = 0x0000 ∧ t.result = .holds (u.field f)

/-- R171: SETB, and its corner cases: it leaves the state SETL of the matching label leaves. -/
def Obligations.SetbCommand : Prop :=
  (∀ (w : Word) (f : Sys2Proof.Field) (b : Bool), decodeCmd w = .ok (.setb f b) ↔
    f.cls = .bool ∧ w = 0x1B000000 ||| (BitVec.ofNat 32 f.index.val <<< 16) ||| (if b then 1 else 0)) ∧
  (∀ w : Word, wordOp w = 0x1B → ((wordF w).toNat ∉ [2, 3, 5, 11, 13] ∨ 2 ≤ (wordImm w).toNat ∨ wordZ w ≠ 0) →
    ∀ s : State, performWord w s = .next { s with status := 0x0006 }) ∧
  (∀ (f : Sys2Proof.Field) (b : Bool) (s : State), f.cls = .bool →
    ∃ t, exec (.setb f b) s = .next t ∧ t.field f = (if b then 1 else 0) ∧ t.status = 0x0000 ∧ ChangesFieldOnly f s t) ∧
  (∀ (f : Sys2Proof.Field) (b : Bool) (s : State), f.cls = .bool →
    s.lblIn = (if b then .supported else .notSupported) → exec (.setl f) s = exec (.setb f b) s)

/-- R172: GETB. -/
def Obligations.GetbCommand : Prop :=
  (∀ (w : Word) (f : Sys2Proof.Field), decodeCmd w = .ok (.getb f) ↔
    f.cls = .bool ∧ w = 0x1C000000 ||| (BitVec.ofNat 32 f.index.val <<< 16)) ∧
  (∀ w : Word, wordOp w = 0x1C → ((wordF w).toNat ∉ [2, 3, 5, 11, 13] ∨ wordImm w ≠ 0 ∨ wordZ w ≠ 0) →
    ∀ s : State, performWord w s = .next { s with status := 0x0006 }) ∧
  (∀ (f : Sys2Proof.Field) (s : State), f.cls = .bool →
    (2 ≤ (s.field f).toNat → exec (.getb f) s = .next { s with status := errorStatus 3 f.index.val }) ∧
    ((s.field f).toNat < 2 → exec (.getb f) s = .next { s with result := .holds (s.field f), status := 0x0000 }))

/-- R174: SETP. -/
def Obligations.SetpCommand : Prop :=
  (∀ w : Word, decodeCmd w = .ok .setp ↔ w = 0x20000000) ∧
  (∀ w : Word, wordOp w = 0x20 → w ≠ 0x20000000 → ∀ s : State, performWord w s = .next { s with status := 0x0006 }) ∧
  (∀ (s : State) (p : Preset), p ∈ Config.presets → p.name = s.pnameIn →
    ∃ t, exec .setp s = .next t ∧ t.field .GXH = p.GXH ∧ t.field .GY = p.GY ∧ t.field .RX = p.RX ∧ t.field .BX = p.BX ∧
      t.field .RY = p.RY ∧ t.field .BY = p.BY ∧ (∀ f : Sys2Proof.Field, f.cls ≠ .chroma → t.field f = s.field f) ∧
      (t.status = if p.placeholder then 0x0800 else 0x0000) ∧ ChangesFieldsOnly s t) ∧
  (∀ s : State, (∀ p ∈ Config.presets, p.name ≠ s.pnameIn) → exec .setp s = .next { s with status := 0x0005 })

/-- R173 (c), (d) with R174: two of the presets are placeholders; SETP of one writes zeros to the six fragments and sets
UNVER, SETP of any other clears it; whatever SETP writes fits. -/
def Obligations.PlaceholderPresetsWriteZeros : Prop :=
  (Config.presets.length = 3 ∧ (Config.presets.filter PresetIn.placeholder).length = 2) ∧
  (∀ (s t : State) (p : Preset), p ∈ Config.presets → p.name = s.pnameIn → exec .setp s = .next t →
    statusUnver t.status = p.placeholder ∧
    ∀ f : Sys2Proof.Field, f.cls = .chroma → (t.field f).toNat < 2 ^ f.width ∧ (p.placeholder = true → t.field f = 0))

/-! ### The whole machine -/

/-- R33, R203, R204: a command that reports an error leaves the state before it with a new STATUS, flags 0, and the block
performs the next command. -/
def Obligations.ErrorsArePrecise : Prop :=
  ∀ (w : Word) (s t : State), performWord w s = .next t → statusErr t.status ≠ 0 →
    t = { s with status := t.status } ∧ statusApprox t.status = false ∧ statusUnrec t.status = false ∧
    statusEnd t.status = false ∧ statusUnver t.status = false ∧ ∀ w' : Word, ∃ u, performWord w' t = .next u

/-- R202: which errors each command can report, once its word is accepted. -/
def Obligations.ErrorsByCommand : Prop :=
  ∀ (i : Instr) (s t : State), i.wf = true → exec i s = .next t → statusErr t.status ∈ allowedErr i

/-- R27 to R30, R110: which commands write each output register. -/
def Obligations.WritersOfOutputRegisters : Prop :=
  ∀ (i : Instr) (s t : State), exec i s = .next t →
    (t.recOut ≠ s.recOut → i = .encode) ∧
    (t.result ≠ s.result → (∃ f, i = .rdf f) ∨ (∃ f k, i = .enuml f k) ∨ ∃ f, i = .getb f) ∧
    (t.nitsOut ≠ s.nitsOut → ∃ f, i = .lumget f) ∧
    (t.labelOut ≠ s.labelOut → (∃ f, i = .getl f) ∨ ∃ f k, i = .enuml f k)

/-- R20: which commands write the field registers, and which fields. -/
def Obligations.WritersOfFieldRegisters : Prop :=
  ∀ (i : Instr) (s t : State) (f : Sys2Proof.Field), exec i s = .next t → t.field f ≠ s.field f →
    i = .decode ∨ i = .hexdec ∨ i = .newfs ∨ (∃ v, i = .ldf f v) ∨ (∃ v, i = .setf f v) ∨
    (i = .lumset f ∧ f.cls = .lum) ∨ (i = .setl f ∧ (f.cls = .enum ∨ f.cls = .bool)) ∨
    (∃ b, i = .setb f b ∧ f.cls = .bool) ∨ (i = .setp ∧ f.cls = .chroma)

/-- R35: no command writes an operand port (nor what the host does next). -/
def Obligations.CommandsLeavePorts : Prop :=
  ∀ (i : Instr) (s t : State), exec i s = .next t →
    t.din = s.din ∧ t.lblIn = s.lblIn ∧ t.nitsIn = s.nitsIn ∧ t.pnameIn = s.pnameIn ∧ t.host = s.host

/-- R33, R38, R51, R57: no command reads STATUS, and every command rewrites all of it; no command reads an output
register: with other contents of the four, the field registers and STATUS it leaves are the same, an output register it
writes gets the same value, and one it does not write keeps its own contents in either run. -/
def Obligations.CommandsIgnoreStatusAndOutputs : Prop :=
  (∀ (i : Instr) (s : State) (st : BitVec 16), exec i { s with status := st } = exec i s) ∧
  (∀ (i : Instr) (s t : State) (r : OutReg Record) (v : OutReg RegVal) (x : OutReg Nits) (l : OutReg LabelResult),
    exec i s = .next t →
    ∃ u, exec i { s with recOut := r, result := v, nitsOut := x, labelOut := l } = .next u ∧ u.fs = t.fs ∧
      u.status = t.status ∧
      (WritesRecOut i t → u.recOut = t.recOut) ∧ (¬ WritesRecOut i t → t.recOut = s.recOut ∧ u.recOut = r) ∧
      (WritesResult i t → u.result = t.result) ∧ (¬ WritesResult i t → t.result = s.result ∧ u.result = v) ∧
      (WritesNitsOut i t → u.nitsOut = t.nitsOut) ∧ (¬ WritesNitsOut i t → t.nitsOut = s.nitsOut ∧ u.nitsOut = x) ∧
      (WritesLabelOut i t → u.labelOut = t.labelOut) ∧
      (¬ WritesLabelOut i t → t.labelOut = s.labelOut ∧ u.labelOut = l))

/-- R58: issuing the same command twice with the same ports leaves the same state as issuing it once. -/
def Obligations.CommandsAreIdempotent : Prop :=
  ∀ (i : Instr) (s t : State), exec i s = .next t → exec i t = .next t

/-- R32: STATUS is 0 after reset; whatever it held, after any command word it is legal, with a flag set only by the one
command whose flag it is. -/
def Obligations.EveryCommandLeavesLegalStatus : Prop :=
  State.reset.status = 0x0000 ∧
  ∀ (w : Word) (s t : State), performWord w s = .next t → StatusOk t.status ∧
    (statusApprox t.status = true → ∃ f, decodeCmd w = .ok (.lumset f)) ∧
    (statusUnrec t.status = true → ∃ f, decodeCmd w = .ok (.getl f)) ∧
    (statusEnd t.status = true → ∃ f k, decodeCmd w = .ok (.enuml f k)) ∧
    (statusUnver t.status = true → decodeCmd w = .ok .setp)

/-- R238, R204: every command word, in every state, ends in a next state. -/
def Obligations.EveryCommandTerminates : Prop := ∀ (w : Word) (s : State), ∃ t, performWord w s = .next t

/-- R29, R30, R32, R35: the invariant (a legal STATUS, NITS_OUT an entry of a luminance table, LABEL_OUT a label of a
label table or UNRECOGNIZED, at most 255 octets on DIN) is kept by every step. -/
def Obligations.InvariantKeptByStep : Prop := ∀ s t : State, Inv s → step s = .next t → Inv t

/-- The invariant holds after reset: STATUS and the output registers as R40 says; that DIN (R35) is within its length
rests on the model's choice that the port is empty at reset (log 2). -/
def Obligations.InvariantAtReset : Prop := Inv State.reset
end

