-- ==== Sys2Proof/Laws/State.lean ====
section
/-! SUPPORT. One lemma per field of State per update, all true by rfl, so that no proof unfolds a record update; then
what reading a field register gives after each update. -/

namespace Sys2Proof.Machine

@[simp] theorem State.setField_fs (s : State) (f : Field) (v : RegVal) : (s.setField f v).fs = s.fs.set f.index v := rfl
@[simp] theorem State.setField_recOut (s : State) (f : Field) (v : RegVal) : (s.setField f v).recOut = s.recOut := rfl
@[simp] theorem State.setField_result (s : State) (f : Field) (v : RegVal) : (s.setField f v).result = s.result := rfl
@[simp] theorem State.setField_nitsOut (s : State) (f : Field) (v : RegVal) : (s.setField f v).nitsOut = s.nitsOut := rfl
@[simp] theorem State.setField_labelOut (s : State) (f : Field) (v : RegVal) : (s.setField f v).labelOut = s.labelOut := rfl
@[simp] theorem State.setField_status (s : State) (f : Field) (v : RegVal) : (s.setField f v).status = s.status := rfl
@[simp] theorem State.setField_din (s : State) (f : Field) (v : RegVal) : (s.setField f v).din = s.din := rfl
@[simp] theorem State.setField_lblIn (s : State) (f : Field) (v : RegVal) : (s.setField f v).lblIn = s.lblIn := rfl
@[simp] theorem State.setField_nitsIn (s : State) (f : Field) (v : RegVal) : (s.setField f v).nitsIn = s.nitsIn := rfl
@[simp] theorem State.setField_pnameIn (s : State) (f : Field) (v : RegVal) : (s.setField f v).pnameIn = s.pnameIn := rfl
@[simp] theorem State.setField_host (s : State) (f : Field) (v : RegVal) : (s.setField f v).host = s.host := rfl

@[simp] theorem State.setAllFields_fs (s : State) (g : Field → RegVal) : (s.setAllFields g).fs = fieldSetOf g := rfl
@[simp] theorem State.setAllFields_recOut (s : State) (g : Field → RegVal) : (s.setAllFields g).recOut = s.recOut := rfl
@[simp] theorem State.setAllFields_result (s : State) (g : Field → RegVal) : (s.setAllFields g).result = s.result := rfl
@[simp] theorem State.setAllFields_nitsOut (s : State) (g : Field → RegVal) : (s.setAllFields g).nitsOut = s.nitsOut := rfl
@[simp] theorem State.setAllFields_labelOut (s : State) (g : Field → RegVal) : (s.setAllFields g).labelOut = s.labelOut := rfl
@[simp] theorem State.setAllFields_status (s : State) (g : Field → RegVal) : (s.setAllFields g).status = s.status := rfl
@[simp] theorem State.setAllFields_din (s : State) (g : Field → RegVal) : (s.setAllFields g).din = s.din := rfl
@[simp] theorem State.setAllFields_lblIn (s : State) (g : Field → RegVal) : (s.setAllFields g).lblIn = s.lblIn := rfl
@[simp] theorem State.setAllFields_nitsIn (s : State) (g : Field → RegVal) : (s.setAllFields g).nitsIn = s.nitsIn := rfl
@[simp] theorem State.setAllFields_pnameIn (s : State) (g : Field → RegVal) : (s.setAllFields g).pnameIn = s.pnameIn := rfl
@[simp] theorem State.setAllFields_host (s : State) (g : Field → RegVal) : (s.setAllFields g).host = s.host := rfl

@[simp] theorem State.complete_fs (s : State) (fl : Flags) : (s.complete fl).fs = s.fs := rfl
@[simp] theorem State.complete_recOut (s : State) (fl : Flags) : (s.complete fl).recOut = s.recOut := rfl
@[simp] theorem State.complete_result (s : State) (fl : Flags) : (s.complete fl).result = s.result := rfl
@[simp] theorem State.complete_nitsOut (s : State) (fl : Flags) : (s.complete fl).nitsOut = s.nitsOut := rfl
@[simp] theorem State.complete_labelOut (s : State) (fl : Flags) : (s.complete fl).labelOut = s.labelOut := rfl
@[simp] theorem State.complete_status (s : State) (fl : Flags) : (s.complete fl).status = statusWord 0 0 fl := rfl
@[simp] theorem State.complete_din (s : State) (fl : Flags) : (s.complete fl).din = s.din := rfl
@[simp] theorem State.complete_lblIn (s : State) (fl : Flags) : (s.complete fl).lblIn = s.lblIn := rfl
@[simp] theorem State.complete_nitsIn (s : State) (fl : Flags) : (s.complete fl).nitsIn = s.nitsIn := rfl
@[simp] theorem State.complete_pnameIn (s : State) (fl : Flags) : (s.complete fl).pnameIn = s.pnameIn := rfl
@[simp] theorem State.complete_host (s : State) (fl : Flags) : (s.complete fl).host = s.host := rfl

@[simp] theorem State.raise_fs (s : State) (e : ErrorKind) (d : BitVec 5) : (s.raise e d).fs = s.fs := rfl
@[simp] theorem State.raise_recOut (s : State) (e : ErrorKind) (d : BitVec 5) : (s.raise e d).recOut = s.recOut := rfl
@[simp] theorem State.raise_result (s : State) (e : ErrorKind) (d : BitVec 5) : (s.raise e d).result = s.result := rfl
@[simp] theorem State.raise_nitsOut (s : State) (e : ErrorKind) (d : BitVec 5) : (s.raise e d).nitsOut = s.nitsOut := rfl
@[simp] theorem State.raise_labelOut (s : State) (e : ErrorKind) (d : BitVec 5) : (s.raise e d).labelOut = s.labelOut := rfl
@[simp] theorem State.raise_status (s : State) (e : ErrorKind) (d : BitVec 5) : (s.raise e d).status = statusWord e.code d {} := rfl
@[simp] theorem State.raise_din (s : State) (e : ErrorKind) (d : BitVec 5) : (s.raise e d).din = s.din := rfl
@[simp] theorem State.raise_lblIn (s : State) (e : ErrorKind) (d : BitVec 5) : (s.raise e d).lblIn = s.lblIn := rfl
@[simp] theorem State.raise_nitsIn (s : State) (e : ErrorKind) (d : BitVec 5) : (s.raise e d).nitsIn = s.nitsIn := rfl
@[simp] theorem State.raise_pnameIn (s : State) (e : ErrorKind) (d : BitVec 5) : (s.raise e d).pnameIn = s.pnameIn := rfl
@[simp] theorem State.raise_host (s : State) (e : ErrorKind) (d : BitVec 5) : (s.raise e d).host = s.host := rfl

@[simp] theorem State.resetEvent_fs (s : State) : (s.resetEvent).fs = State.reset.fs := rfl
@[simp] theorem State.resetEvent_recOut (s : State) : (s.resetEvent).recOut = .noValue := rfl
@[simp] theorem State.resetEvent_result (s : State) : (s.resetEvent).result = .noValue := rfl
@[simp] theorem State.resetEvent_nitsOut (s : State) : (s.resetEvent).nitsOut = .noValue := rfl
@[simp] theorem State.resetEvent_labelOut (s : State) : (s.resetEvent).labelOut = .noValue := rfl
@[simp] theorem State.resetEvent_status (s : State) : (s.resetEvent).status = 0 := rfl
@[simp] theorem State.resetEvent_din (s : State) : (s.resetEvent).din = s.din := rfl
@[simp] theorem State.resetEvent_lblIn (s : State) : (s.resetEvent).lblIn = s.lblIn := rfl
@[simp] theorem State.resetEvent_nitsIn (s : State) : (s.resetEvent).nitsIn = s.nitsIn := rfl
@[simp] theorem State.resetEvent_pnameIn (s : State) : (s.resetEvent).pnameIn = s.pnameIn := rfl
@[simp] theorem State.resetEvent_host (s : State) : (s.resetEvent).host = s.host := rfl

end Sys2Proof.Machine

namespace Sys2Proof

theorem Field.mem_all (f : Field) : f ∈ Field.all := by cases f <;> decide

theorem Field.index_injective {f g : Field} (h : f.index = g.index) : f = g := by
  cases f <;> cases g <;> first | rfl | exact absurd h (by decide)

@[simp] theorem Field.index_inj {f g : Field} : f.index = g.index ↔ f = g :=
  ⟨Field.index_injective, congrArg _⟩

/-- Field number `f.index` of the table is f. -/
@[simp] theorem Field.ofIndex?_index (f : Field) : Field.ofIndex? f.index.val = some f := by cases f <;> rfl

theorem Field.all_get (f : Field) : Field.all[f.index.val]? = some f := Field.ofIndex?_index f

/-- The reserved indices name no field (20_memory.md R63). -/
theorem Field.ofIndex?_eq_some {n : Nat} {f : Field} (h : Field.ofIndex? n = some f) : n = f.index.val := by
  have hn : n < 18 := by
    by_contra hn
    have hl : Field.all.length ≤ n := by simpa [Field.all] using Nat.le_of_not_lt hn
    simp [Field.ofIndex?, List.getElem?_eq_none hl] at h
  interval_cases n <;> (simp only [Field.ofIndex?, Field.all] at h; cases h; rfl)

/-- HI(f) - LO(f) + 1 = W(f) (10_state.md R21). -/
theorem Field.hi_eq (f : Field) : f.hi = f.lo + f.width - 1 := by cases f <;> rfl

theorem Field.width_pos (f : Field) : 0 < f.width := by cases f <;> decide

theorem Field.width_le (f : Field) : f.width ≤ 7 := by cases f <;> decide

theorem Field.lo_add_width_le (f : Field) : f.lo + f.width ≤ 56 := by cases f <;> decide

/-- The two placings of R21 agree: LO(f) counts from bit 0 of byte 6. -/
theorem Field.lo_eq (f : Field) : f.lo = 48 - 8 * f.byteNo + f.byteLo := by cases f <;> rfl

/-- No field crosses a byte boundary (10_state.md R22). -/
theorem Field.byteLo_add_width_le (f : Field) : f.byteLo + f.width ≤ 8 := by cases f <;> decide

/-- Two fields share no bit (10_state.md R22). -/
theorem Field.disjoint {f g : Field} (h : f ≠ g) : f.lo + f.width ≤ g.lo ∨ g.lo + g.width ≤ f.lo := by
  cases f <;> cases g <;> first | exact absurd rfl h | decide

/-- Every bit of the record lies in a field (10_state.md R22). -/
theorem Field.covers {k : Nat} (h : k < 56) : ∃ f : Field, f.lo ≤ k ∧ k < f.lo + f.width := by
  have key : ∀ k : Fin 56, ∃ f ∈ Field.all, f.lo ≤ k.val ∧ k.val < f.lo + f.width := by decide
  obtain ⟨f, -, hf⟩ := key ⟨k, h⟩
  exact ⟨f, hf⟩

end Sys2Proof

namespace Sys2Proof.Machine

@[simp] theorem fieldSetOf_get (g : Field → RegVal) (f : Field) : (fieldSetOf g).get f.index = g f := by
  cases f <;> rfl

/-- Two Field Sets that agree on every field are equal. -/
theorem fieldSet_ext {a b : FieldSet} (h : ∀ f : Field, a.get f.index = b.get f.index) : a = b := by
  have onto : ∀ i : Fin 18, ∃ f : Field, f.index = i := by
    intro i
    have key : ∀ i : Fin 18, ∃ f ∈ Field.all, f.index = i := by decide
    obtain ⟨f, -, hf⟩ := key i
    exact ⟨f, hf⟩
  apply Vector.ext
  intro i hi
  obtain ⟨f, hf⟩ := onto ⟨i, hi⟩
  have := h f
  rw [hf] at this
  simpa [Vector.get_eq_getElem] using this

@[simp] theorem State.field_setField_self (s : State) (f : Field) (v : RegVal) : (s.setField f v).field f = v := by
  simp [State.field, Vector.get_eq_getElem]

@[simp] theorem State.field_setField_ne (s : State) {f g : Field} (v : RegVal) (h : g ≠ f) :
    (s.setField f v).field g = s.field g := by
  have hi : f.index.val ≠ g.index.val := fun e => h (Field.index_injective (Fin.ext e.symm))
  simp [State.field, Vector.get_eq_getElem, Vector.getElem_set_ne, hi]

@[simp] theorem State.field_setAllFields (s : State) (g : Field → RegVal) (f : Field) :
    (s.setAllFields g).field f = g f := fieldSetOf_get g f

@[simp] theorem State.field_complete (s : State) (fl : Flags) (f : Field) : (s.complete fl).field f = s.field f := rfl

@[simp] theorem State.field_raise (s : State) (e : ErrorKind) (d : BitVec 5) (f : Field) :
    (s.raise e d).field f = s.field f := rfl

theorem State.field_reset (f : Field) : State.reset.field f = 0 := by cases f <;> rfl

@[simp] theorem State.field_resetEvent (s : State) (f : Field) : s.resetEvent.field f = 0 := State.field_reset f

end Sys2Proof.Machine
end

