-- ==== Sys2Proof/Laws/Ops.lean ====
section
/-! SUPPORT. One lemma per shared operation that says what it answers: STATUS words, the width check, the two label maps,
the preset lookup, the first bad character, and the ways one step goes. -/

namespace Sys2Proof.Machine

/-! ### STATUS -/

@[simp] theorem statusErr_statusWord (e : BitVec 3) (d : BitVec 5) (fl : Flags) : statusErr (statusWord e d fl) = e := by
  ext i hi
  simp only [statusErr, statusWord, BitVec.getElem_extractLsb', BitVec.getLsbD_append]
  simp [hi]

@[simp] theorem statusField_statusWord (e : BitVec 3) (d : BitVec 5) (fl : Flags) :
    statusField (statusWord e d fl) = d := by
  ext i hi
  simp only [statusField, statusWord, BitVec.getElem_extractLsb', BitVec.getLsbD_append]
  have h1 : ¬ 3 + i < 3 := by omega
  have h2 : 3 + i - 3 < 5 := by omega
  simp [hi]

@[simp] theorem statusApprox_statusWord (e : BitVec 3) (d : BitVec 5) (fl : Flags) :
    statusApprox (statusWord e d fl) = fl.approx := by
  simp only [statusApprox, statusWord, BitVec.getLsbD_append]
  simp

@[simp] theorem statusUnrec_statusWord (e : BitVec 3) (d : BitVec 5) (fl : Flags) :
    statusUnrec (statusWord e d fl) = fl.unrec := by
  simp only [statusUnrec, statusWord, BitVec.getLsbD_append]
  simp

@[simp] theorem statusEnd_statusWord (e : BitVec 3) (d : BitVec 5) (fl : Flags) :
    statusEnd (statusWord e d fl) = fl.atEnd := by
  simp only [statusEnd, statusWord, BitVec.getLsbD_append]
  simp

@[simp] theorem statusUnver_statusWord (e : BitVec 3) (d : BitVec 5) (fl : Flags) :
    statusUnver (statusWord e d fl) = fl.unver := by
  simp only [statusUnver, statusWord, BitVec.getLsbD_append]
  simp

@[simp] theorem statusReserved_statusWord (e : BitVec 3) (d : BitVec 5) (fl : Flags) :
    statusReserved (statusWord e d fl) = 0 := by
  ext i hi
  simp only [statusReserved, statusWord, BitVec.getElem_extractLsb', BitVec.getLsbD_append]
  interval_cases i <;> simp

/-- An error's code is 1 to 6 (60_exceptions.md R201). -/
theorem ErrorKind.code_ne (e : ErrorKind) : e.code ≠ 0 ∧ e.code ≠ 7 := by cases e <;> decide

@[simp] theorem fieldDetail_toNat (f : Field) : (fieldDetail f).toNat = f.index.val := by cases f <;> rfl

/-! ### The width check -/

theorem overflows_eq_true {f : Field} {v : RegVal} : overflows f v = true ↔ ¬ Fits f v := by
  simp [overflows, Fits]

theorem overflows_eq_false {f : Field} {v : RegVal} : overflows f v = false ↔ Fits f v := by
  simp [overflows, Fits]

/-- No field overflows exactly when the Field Set is in width. -/
theorem firstOverflow_eq_none {s : State} : firstOverflow s.fs = none ↔ InWidth s := by
  simp only [firstOverflow, List.find?_eq_none, InWidth]
  constructor
  · intro h f
    have := h f (Field.mem_all f)
    exact overflows_eq_false.mp (by simpa [State.field] using this)
  · intro h f _
    simpa [State.field] using overflows_eq_false.mpr (h f)

/-- The field ENCODE names is the lowest that overflows (60_exceptions.md R206). -/
theorem firstOverflow_eq_some {s : State} {f : Field} :
    firstOverflow s.fs = some f ↔ ¬ Fits f (s.field f) ∧ ∀ g : Field, g.index < f.index → Fits g (s.field g) := by
  unfold firstOverflow
  rw [List.find?_eq_some_iff_getElem]
  constructor
  · rintro ⟨h, i, hi, hf, lt⟩
    have ei : i = f.index.val :=
      Field.ofIndex?_eq_some (by simp [Field.ofIndex?, List.getElem?_eq_getElem hi, hf])
    subst ei
    refine ⟨overflows_eq_true.mp h, fun g hg => overflows_eq_false.mp ?_⟩
    have := lt g.index.val hg
    have eg : Field.all[g.index.val]'(by omega) = g := by
      have := Field.all_get g
      rw [List.getElem?_eq_getElem (by omega)] at this
      simpa using this
    rw [eg] at this
    simpa [State.field] using this
  · rintro ⟨h, lt⟩
    refine ⟨overflows_eq_true.mpr h, f.index.val, by simp [Field.all], ?_, ?_⟩
    · have := Field.all_get f
      rw [List.getElem?_eq_getElem (by simp [Field.all])] at this
      simpa using this
    · intro j hj
      have hj18 : j < 18 := by omega
      have onto : ∀ i : Fin 18, ∃ g ∈ Field.all, g.index = i := by decide
      obtain ⟨g, -, hg⟩ := onto ⟨j, hj18⟩
      have ej : j = g.index.val := by rw [hg]
      subst ej
      have eg : Field.all[g.index.val]'(by simp [Field.all]) = g := by
        have := Field.all_get g
        rw [List.getElem?_eq_getElem (by simp [Field.all])] at this
        simpa using this
      rw [eg]
      have := overflows_eq_false.mpr (lt g hj)
      simpa [State.field] using this

/-! ### Lookups -/

theorem mem_of_labelToCode {lt : LabelTable} {l : Label} {c : RegVal} (h : labelToCode lt l = some c) :
    (⟨l, c⟩ : LabelEntry) ∈ lt := by
  simp only [labelToCode, Option.map_eq_some_iff] at h
  obtain ⟨e, he, rfl⟩ := h
  have hm := List.mem_of_find?_eq_some he
  have hl : e.label = l := by simpa using List.find?_some he
  exact hl ▸ hm

theorem mem_of_codeToLabel {lt : LabelTable} {l : Label} {c : RegVal} (h : codeToLabel lt c = .label l) :
    (⟨l, c⟩ : LabelEntry) ∈ lt := by
  unfold codeToLabel at h
  split at h
  · rename_i e he
    cases h
    have hm := List.mem_of_find?_eq_some he
    have hc : e.code = c := by simpa using List.find?_some he
    exact hc ▸ hm
  · cases h

/-- The three labels the spec names are distinct. -/
theorem namedLabels_nodup : [Label.supported, .notSupported, .fourX].Nodup := by decide

theorem presetNamed_eq_some {n : PresetName} {p : Preset} (h : presetNamed n = some p) :
    p ∈ Config.presets ∧ p.name = n :=
  ⟨List.mem_of_find?_eq_some h, by simpa using List.find?_some h⟩

/-- Every label table a command can reach meets R160. -/
theorem labelTable_ok {f : Field} {lt : LabelTable} (h : labelTable f = some lt) : LabelTableOk f.width lt := by
  have hb : LabelTableOk 1 ltBool := ⟨by decide, by decide, by decide⟩
  cases f <;> simp only [labelTable, Option.some.injEq, reduceCtorEq] at h <;> subst h <;>
    first
      | exact hb
      | exact Config.given.ok.dmv
      | exact Config.given.ok.blmin
      | exact Config.given.ok.ifmode

/-- Every luminance table a command can reach is strictly increasing (42_luminance.md R141). -/
theorem lumTable_strictMono {f : Field} {T : LumTable} (h : lumTable f = some T) : StrictMono T := by
  cases f <;> simp only [lumTable, Option.some.injEq, reduceCtorEq] at h <;> subst h
  · exact Fin.strictMono_iff_lt_succ.mpr Config.given.ok.minLum.increasing
  · exact Fin.strictMono_iff_lt_succ.mpr Config.given.ok.maxLum.increasing

/-! ### Steps -/

theorem exec_answers (i : Instr) (s : State) : ∃ t, exec i s = .next t := by cases i <;> exact ⟨_, rfl⟩

theorem performWord_of_ok {w : Word} {i : Instr} (h : decodeCmd w = .ok i) (s : State) :
    performWord w s = exec i s := by simp [performWord, h]

theorem performWord_of_error {w : Word} {e : IllegalWord} (h : decodeCmd w = .error e) (s : State) :
    performWord w s = .next (s.raise .illegalCommand 0) := by simp [performWord, h]

theorem step_of_cons {s : State} {e : HostInput} {rest : List HostInput} (h : s.host = e :: rest) :
    step s = performInput e { s with host := rest } := by simp [step, takeInput, h]

theorem step_of_nil {s : State} (h : s.host = []) : step s = .next s := by simp [step, takeInput, h]

/-- Everything a step that goes on can be: waiting, a command that runs, a rejected word, a port driven, an output
read, the reset event. -/
theorem step_cases {s t : State} (h : step s = .next t) :
    (s.host = [] ∧ t = s) ∨
    ∃ e rest, s.host = e :: rest ∧
      ((∃ w i, e = .command w ∧ decodeCmd w = .ok i ∧ exec i { s with host := rest } = .next t) ∨
       (∃ w err, e = .command w ∧ decodeCmd w = .error err ∧
          t = State.raise { s with host := rest } .illegalCommand 0) ∨
       (∃ octets, e = .drive (.din octets) ∧ octets.length ≤ 255 ∧ t = { s with host := rest, din := octets }) ∨
       (∃ l, e = .drive (.lblIn l) ∧ t = { s with host := rest, lblIn := l }) ∨
       (∃ x, e = .drive (.nitsIn x) ∧ t = { s with host := rest, nitsIn := x }) ∨
       (∃ n, e = .drive (.pnameIn n) ∧ t = { s with host := rest, pnameIn := n }) ∨
       (∃ p o, e = .read p ∧ observe p s = some o ∧ t = { s with host := rest }) ∨
       (e = .reset ∧ t = State.resetEvent { s with host := rest })) := by
  cases hh : s.host with
  | nil => rw [step_of_nil hh] at h; cases h; exact .inl ⟨rfl, rfl⟩
  | cons e rest =>
    rw [step_of_cons hh] at h
    refine .inr ⟨e, rest, rfl, ?_⟩
    cases e with
    | command w =>
      simp only [performInput] at h
      cases hd : decodeCmd w with
      | ok i => exact .inl ⟨w, i, rfl, hd, by rwa [performWord_of_ok hd] at h⟩
      | error err =>
        rw [performWord_of_error hd] at h
        cases h
        exact .inr (.inl ⟨w, err, rfl, hd, rfl⟩)
    | drive p =>
      cases p with
      | din octets =>
        simp only [performInput, drivePort] at h
        split at h
        · rename_i hle
          cases h
          exact .inr (.inr (.inl ⟨octets, rfl, hle, rfl⟩))
        · cases h
      | lblIn l => cases h; exact .inr (.inr (.inr (.inl ⟨l, rfl, rfl⟩)))
      | nitsIn x => cases h; exact .inr (.inr (.inr (.inr (.inl ⟨x, rfl, rfl⟩))))
      | pnameIn n => cases h; exact .inr (.inr (.inr (.inr (.inr (.inl ⟨n, rfl, rfl⟩)))))
    | read p =>
      simp only [performInput, readPort] at h
      split at h
      · rename_i o ho
        cases h
        have same : observe p { s with host := rest } = observe p s := by
          cases p <;> rfl
        exact .inr (.inr (.inr (.inr (.inr (.inr (.inl ⟨p, o, rfl, same ▸ ho, rfl⟩))))))
      · cases h
    | reset => cases h; exact .inr (.inr (.inr (.inr (.inr (.inr (.inr ⟨rfl, rfl⟩))))))

end Sys2Proof.Machine
end

