-- ==== Sys2Proof/Laws/PerInstr.lean ====
section
/-! SUPPORT. Statements made per instruction. Family EncodedZ: the word an instruction encodes to has its z field, bits
23:21, zero (30_encoding.md R70, R75). -/

namespace Sys2Proof.Laws.EncodedZ

/-- Bits 23:21 of the encoded word are 0. -/
def Statement (i : Instr) : Prop := wordZ (encode i) = 0

theorem commandWord_z (op : BitVec 8) (f : BitVec 5) (imm : BitVec 16) : wordZ (commandWord op f imm) = 0 := by
  ext i hi
  simp only [wordZ, commandWord, BitVec.getElem_extractLsb', BitVec.getLsbD_append]
  interval_cases i <;> simp

theorem nop : Statement .nop := commandWord_z ..
theorem decode : Statement .decode := commandWord_z ..
theorem hexdec : Statement .hexdec := commandWord_z ..
theorem encode : Statement .encode := commandWord_z ..
theorem newfs : Statement .newfs := commandWord_z ..
theorem ldf (f : Field) (imm : RegVal) : Statement (.ldf f imm) := commandWord_z ..
theorem setf (f : Field) (imm : RegVal) : Statement (.setf f imm) := commandWord_z ..
theorem rdf (f : Field) : Statement (.rdf f) := commandWord_z ..
theorem lumset (f : Field) : Statement (.lumset f) := commandWord_z ..
theorem lumget (f : Field) : Statement (.lumget f) := commandWord_z ..
theorem setl (f : Field) : Statement (.setl f) := commandWord_z ..
theorem getl (f : Field) : Statement (.getl f) := commandWord_z ..
theorem enuml (f : Field) (k : RegVal) : Statement (.enuml f k) := commandWord_z ..
theorem setb (f : Field) (b : Bool) : Statement (.setb f b) := commandWord_z ..
theorem getb (f : Field) : Statement (.getb f) := commandWord_z ..
theorem setp : Statement .setp := commandWord_z ..

end Sys2Proof.Laws.EncodedZ
end

