-- ==== Sys2Proof/Tests/Slice0.lean ====
section
/-! SUPPORT. The model's own tests. Expected values come from spec/: words from 30_encoding.md R74 and R80, vectors from
95_test_vectors.md (named V-… below), and for each obligation with hypotheses a `witness_…` that meets them together. -/

namespace Sys2Proof.Machine

/-! ### Helpers -/

/-- The next state of an outcome. -/
def after (o : Host.Outcome State Fault Refusal) : Option State :=
  match o with
  | .next s => some s
  | .fault _ => none
  | .refused _ => none

/-- The fault of an outcome. -/
def faultOf (o : Host.Outcome State Fault Refusal) : Option Fault :=
  match o with
  | .next _ => none
  | .fault f => some f
  | .refused _ => none

/-- The instruction a word decodes to. -/
def decoded (w : Word) : Option Instr :=
  match decodeCmd w with
  | .ok i => some i
  | .error _ => none

/-- Reset with octets on DIN. -/
def withDin (octets : List Byte) : State := { State.reset with din := octets }

/-- Reset with a script. -/
def withHost (inputs : List HostInput) : State := { State.reset with host := inputs }

/-- The seven octets of W1 and V-D1. -/
def octetsD1 : List Byte := [0x48, 0x03, 0x76, 0x82, 0x5e, 0x6d, 0x95]

/-- The characters of "480376825E6d95" (V-H9, mixed case). -/
def charsD1 : List Byte := [0x34, 0x38, 0x30, 0x33, 0x37, 0x36, 0x38, 0x32, 0x35, 0x45, 0x36, 0x64, 0x39, 0x35]

/-- The fields of V-D1. -/
def fieldsD1 : List RegVal := [2, 2, 0, 0, 0, 0, 3, 14, 1, 2, 65, 0, 47, 0, 13, 5, 18, 5]

/-- Reset with the fields of V-D1. -/
def stateD1 : State := { State.reset with fs := #v[2, 2, 0, 0, 0, 0, 3, 14, 1, 2, 65, 0, 47, 0, 13, 5, 18, 5] }

/-! ### WellFormed: an ill-formed term for each check (R73) -/

theorem test_wf_refuses_lumset : (Instr.lumset .VER).wf = false := by decide
theorem test_wf_refuses_lumget : (Instr.lumget .BLMIN).wf = false := by decide
theorem test_wf_refuses_setl : (Instr.setl .VER).wf = false := by decide
theorem test_wf_refuses_getl : (Instr.getl .RSVD).wf = false := by decide
theorem test_wf_refuses_enuml : (Instr.enuml .GXH 0).wf = false := by decide
theorem test_wf_refuses_setb : (Instr.setb .DMV true).wf = false := by decide
theorem test_wf_refuses_getb : (Instr.getb .DMV).wf = false := by decide
theorem test_wf_accepts : [Instr.nop, .ldf .RSVD 0xFFFF, .lumset .MINLUM, .setl .IFMODE, .enuml .BLC 2, .getb .GDIM].all
    Instr.wf = true := by decide

/-! ### Decode: every row's pattern of R74, written out bit by bit -/

theorem test_decode_nop : decoded 0b00000000000000000000000000000000 = some .nop := by decide
theorem test_decode_decode : decoded 0b00000001000000000000000000000000 = some .decode := by decide
theorem test_decode_hexdec : decoded 0b00000010000000000000000000000000 = some .hexdec := by decide
theorem test_decode_encode : decoded 0b00000011000000000000000000000000 = some .encode := by decide
theorem test_decode_newfs : decoded 0b00001000000000000000000000000000 = some .newfs := by decide
/-- V-F3: LDF GXH, 128. -/
theorem test_decode_ldf : decoded 0b00001001000010100000000010000000 = some (.ldf .GXH 128) := by decide
/-- V-C13: SETF BY, 7. -/
theorem test_decode_setf : decoded 0b00001010000100010000000000000111 = some (.setf .BY 7) := by decide
theorem test_decode_rdf : decoded 0b00001011000010010000000000000000 = some (.rdf .IFMODE) := by decide
theorem test_decode_lumset : decoded 0b00010000000001110000000000000000 = some (.lumset .MAXLUM) := by decide
theorem test_decode_lumget : decoded 0b00010001000001000000000000000000 = some (.lumget .MINLUM) := by decide
theorem test_decode_setl : decoded 0b00011000000000010000000000000000 = some (.setl .DMV) := by decide
theorem test_decode_getl : decoded 0b00011001000001100000000000000000 = some (.getl .BLMIN) := by decide
theorem test_decode_enuml : decoded 0b00011010000000101111111111111111 = some (.enuml .BLC 65535) := by decide
theorem test_decode_setb : decoded 0b00011011000011010000000000000001 = some (.setb .I10B444 true) := by decide
theorem test_decode_getb : decoded 0b00011100000010110000000000000000 = some (.getb .I12B444) := by decide
theorem test_decode_setp : decoded 0b00100000000000000000000000000000 = some .setp := by decide

/-- Section 2.6: V-C1 to V-C12, V-F11, V-M15, V-M18. -/
theorem test_decode_rejects : ([0x04000000, 0xFF000000, 0x00200000, 0x03000001, 0x03010000, 0x0B000001, 0x0A120000,
    0x0A1F0000, 0x10000000, 0x18000000, 0x18080000, 0x1A0A0000, 0x09120000, 0x1B020002, 0x1C010000] : List Word).all
    (fun w => decoded w == none) = true := by decide

/-- Words of R80 and of programs P1, P2 and P4. -/
theorem test_encode_words : [Instr.ldf .GXH 128, .setf .IFMODE 3, .rdf .IFMODE, .lumset .MAXLUM, .setl .DMV, .enuml .BLC 2,
    .setb .YUV12 true, .getb .BLC, .setp].map encode =
    [0x090A0080, 0x0A090003, 0x0B090000, 0x10070000, 0x18010000, 0x1A020002, 0x1B030001, 0x1C020000, 0x20000000] := by
  decide

theorem test_table_word : decodeTableWord 32 0x0A110007 = some (.setf .BY 7) := by decide

/-- A word of every row runs as the first instruction after reset. -/
theorem test_rows_run_after_reset : ([0x00000000, 0x01000000, 0x02000000, 0x03000000, 0x08000000, 0x09000000, 0x0A000000,
    0x0B000000, 0x10040000, 0x11040000, 0x18010000, 0x19010000, 0x1A010000, 0x1B020000, 0x1C020000, 0x20000000] :
    List Nat).all (fun w => (after (step (State.reset.withFetchWord 32 w))).isSome) = true := by decide

/-! ### Layout (R21, R22) -/

/-- The two placings of R21 agree for every field, and HI, LO and W fit together. -/
theorem test_layout : Field.all.all (fun f => decide (f.hi + 1 = f.lo + f.width ∧
    f.lo = 48 - 8 * f.byteNo + f.byteLo ∧ f.byteLo + f.width ≤ 8)) = true := by decide

/-! ### Commands -/

/-- V-D1. -/
theorem test_decode_d1 : (after (exec .decode (withDin octetsD1))).map (fun t => (t.fs.toList, t.status)) =
    some (fieldsD1, 0) := by decide
/-- V-H2. -/
theorem test_decode_short : (after (exec .decode { stateD1 with din := [1, 2, 3, 4, 5, 6] })).map
    (fun t => (t.fs.toList, t.status)) = some (fieldsD1, 1) := by decide
/-- V-H9. -/
theorem test_hexdec_d1 : (after (exec .hexdec (withDin charsD1))).map (fun t => (t.fs.toList, t.status)) =
    some (fieldsD1, 0) := by decide
/-- V-H6: a space at position 8; STATUS 0x0042 is ERR 2, FIELD 8. -/
theorem test_hexdec_space : (after (exec .hexdec (withDin (charsD1.set 8 0x20)))).map (·.status) = some 0x0042 := by
  decide
/-- V-E1. -/
theorem test_encode_d1 : (after (exec .encode stateD1)).map (fun t => (t.recOut, t.status)) =
    some (.holds 0x480376825e6d95, 0) := by decide
/-- P3, step 4: STATUS 0x0053. -/
theorem test_encode_overflow : (after (exec .encode (stateD1.setField .GXH 128))).map (fun t => (t.recOut, t.status)) =
    some (.noValue, 0x0053) := by decide
/-- R103: exactly the 22 characters, and their values at the ends of the three ranges. -/
theorem test_hexval : [0x2F, 0x30, 0x39, 0x3A, 0x40, 0x41, 0x46, 0x47, 0x60, 0x61, 0x66, 0x67, 0xC3].map hexval =
    [none, some 0, some 9, none, none, some 10, some 15, none, none, some 10, some 15, none, none] := by decide
/-- R104: HEX_OUT of V-D1 is "480376825e6d95", lowercase. -/
theorem test_hexout : hexOfRecord 0x480376825e6d95 =
    [0x34, 0x38, 0x30, 0x33, 0x37, 0x36, 0x38, 0x32, 0x35, 0x65, 0x36, 0x64, 0x39, 0x35] := by decide
/-- R120, example. -/
theorem test_nop : (after (exec .nop { stateD1 with status := 0x0003 })) = some stateD1 := by decide
/-- V-F2. -/
theorem test_newfs : (after (exec .newfs stateD1)).map (·.fs) = some State.reset.fs := by decide
/-- V-F3. -/
theorem test_ldf : (after (exec (.ldf .GXH 128) State.reset)).map (fun t => (t.field .GXH, t.field .I12B444, t.status)) =
    some (128, 0, 0) := by decide
/-- V-F5 and V-F6. -/
theorem test_setf : (after (exec (.setf .GXH 127) State.reset)).map (fun t => (t.field .GXH, t.status)) = some (127, 0) ∧
    (after (exec (.setf .GXH 128) State.reset)).map (fun t => (t.field .GXH, t.status)) = some (0, 0x0053) := by decide
/-- V-F10. -/
theorem test_rdf : (after (exec (.rdf .IFMODE) stateD1)).map (·.result) = some (.holds 2) := by decide
/-- R142: the tie at a midpoint goes to the lower index; the ends. The table here is the test's own. -/
theorem test_nearest : nearest (fun i => (i.val : Rat)) (7 / 2) = 3 ∧ nearest (fun i => (i.val : Rat)) (18 / 5) = 4 ∧
    nearest (fun i => (i.val : Rat)) 100 = 31 ∧ nearest (fun i => (i.val : Rat)) (-1) = 0 := by decide +kernel
/-- V-L14. -/
theorem test_lumset_ver : (after (exec (.lumset .VER) State.reset)).map (·.status) = some 0x0006 := by decide
/-- V-L13. -/
theorem test_lumget_overflow : (after (exec (.lumget .MAXLUM) (State.reset.setField .MAXLUM 32))).map
    (fun t => (t.nitsOut, t.status)) = some (.noValue, 0x003B) := by decide
/-- V-M3. -/
theorem test_setl : (after (exec (.setl .BLC) { State.reset with lblIn := .supported })).map
    (fun t => (t.field .BLC, t.status)) = some (1, 0) := by decide
/-- V-M4, where "Supported" is a label. -/
theorem test_setl_exact (h : Config.given.params.isLabel "Supported" = true) :
    (after (exec (.setl .BLC) { State.reset with lblIn := ⟨"Supported", h⟩ })).map
      (fun t => (t.field .BLC, t.status)) = some (0, 4) := rfl
/-- P4, step 6. -/
theorem test_getl : (after (exec (.getl .BLC) (State.reset.setField .BLC 1))).map (fun t => (t.labelOut, t.status)) =
    some (.holds (.label .supported), 0) := by decide
/-- V-M8. -/
theorem test_getl_overflow : (after (exec (.getl .DMV) (State.reset.setField .DMV 8))).map (·.status) = some 0x000B := by
  decide
/-- V-M9. -/
theorem test_enuml : (after (exec (.enuml .BLC 0) State.reset)).map (fun t => (t.labelOut, t.result, t.status)) =
    some (.holds (.label .notSupported), .holds 0, 0) := by decide
/-- V-M11; STATUS 0x0400 as in P4, step 3. -/
theorem test_enuml_end : (after (exec (.enuml .BLC 2) State.reset)).map (fun t => (t.labelOut, t.result, t.status)) =
    some (.noValue, .noValue, 0x0400) := by decide
/-- V-M14. -/
theorem test_setb : (after (exec (.setb .I10B444 true) State.reset)).map (fun t => (t.field .I10B444, t.status)) =
    some (1, 0) := by decide
/-- V-M16 (YUV12 = 1) and V-M17. -/
theorem test_getb : (after (exec (.getb .YUV12) (State.reset.setField .YUV12 1))).map (·.result) = some (.holds 1) ∧
    (after (exec (.getb .GDIM) (State.reset.setField .GDIM 2))).map (fun t => (t.result, t.status)) =
      some (.noValue, 0x002B) := by decide
/-- R174: whatever the presets are, SETP of a placeholder (R173) from the fields of V-D1 gives the fields of V-M19. -/
theorem test_setp_placeholder (p : Preset) (hp : presetNamed p.name = some p) (hh : p.placeholder = true) :
    (after (exec .setp { stateD1 with pnameIn := p.name })).map (fun t => (t.fs.toList, t.status)) =
      some ([2, 2, 0, 0, 0, 0, 3, 14, 1, 2, 0, 0, 0, 0, 0, 0, 0, 0], 0x0800) := by
  obtain ⟨h1, h2, h3, h4, h5, h6⟩ :=
    Config.given.ok.presets.placeholdersZero p (presetNamed_eq_some hp).1 hh
  simp only [exec, execSetp, hp, hh, h1, h2, h3, h4, h5, h6]
  rfl
/-- R230. -/
theorem test_reset_event : after (step { stateD1 with recOut := .holds 1, status := 3, host := [.reset] }) =
    some State.reset := by decide
/-- R31, I9: reading REC_OUT after reset is a fault of the host program. -/
theorem test_read_no_value : faultOf (step (withHost [.read (.value .recOut)])) = some (.readOfNoValue (.value .recOut)) := by
  decide
/-- R235: a driven port keeps its value. -/
theorem test_drive : (after (step (withHost [.drive (.din [1, 2])]))).map (·.din) = some [1, 2] := by decide
/-- R81, R80: TRUE YUV12 is SETB YUV12, 1. -/
theorem test_assemble_true : assemble (.setTrue (.mnemonic .YUV12)) = .ok [.command 0x1B030001] := by rfl
/-- R82: the listing line of its example. -/
theorem test_listing : listingLine (.hexdec "480376825e6d95") =
    .ok "02000000  HEXDEC \"480376825e6d95\"   ; DIN = 34 38 30 33 37 36 38 32 35 65 36 64 39 35" := by
  decide +kernel

/-! ### Witnesses: for each obligation with hypotheses, states and operands that meet them -/

theorem witness_DecodeReadsBackEncode : (Instr.ldf .BY 0xFFFF).wf = true ∧ (Instr.setb .BLC true).wf = true := by decide

theorem witness_DecodedWordIsTheEncoding : decodeCmd 0x1B0D0001 = .ok (.setb .I10B444 true) := by decide

theorem witness_OpcodeRowsDisjoint : (opcodeMap.get ⟨13, by decide⟩).accepts 0x1B020001 = true := by decide

/-- One word for each clause, at the ends of each range. -/
theorem witness_RejectedWordsRaiseIllegalCommand :
    (∀ op ∈ ([0x04, 0x07, 0x0C, 0x0F, 0x12, 0x17, 0x1D, 0x1F, 0x21, 0xFF] : List (BitVec 8)), OpReserved op) ∧
    RequiredZeroBroken 0x00200000 ∧ RequiredZeroBroken 0x03010000 ∧ RequiredZeroBroken 0x0B000001 ∧
    RequiredZeroBroken 0x1B020002 ∧ FieldInadmissible 0x0A120000 ∧ FieldInadmissible 0x10050000 ∧
    FieldInadmissible 0x18080000 ∧ FieldInadmissible 0x1C010000 :=
  ⟨by decide, by decide, by decide, by decide, by decide, by decide, by decide, by decide, by decide⟩

theorem witness_IllFormedInstructionsRaiseIllegalCommand : (Instr.setb .DMV true).wf = false := by decide

/-- A line of each kind of operand, at the ends of the ranges. -/
theorem witness_AssembledLinesPresentCommands :
    (∀ c ∈ "4f".toList, c.toNat < 128) ∧ FieldRef.index 17 = .index Field.BY.index.val ∧
    (ImmText.hex 65535).value < 65536 ∧ (ImmText.decimal 1).value < 2 ∧
    Field.MINLUM.cls = .lum ∧ (Field.DMV.cls = .enum ∨ Field.DMV.cls = .bool) ∧ Field.BLC.cls = .bool ∧
    assemble (.setf (.index 17) (.hex 7)) = .ok [.command 0x0A110007] ∧
    HostInput.command 0x0A110007 ∈ [HostInput.command 0x0A110007] := by
  refine ⟨by simp, by decide, by decide, by decide, by decide, by decide, by decide, by decide, by decide⟩

theorem witness_PseudoLinesAssembleToTheirExpansion :
    assemble (.decode [1]) = .ok [.drive (.din [1]), .command 0x01000000] ∧ assemble .encode = .ok [.command 0x03000000] ∧
    assemble (.hexdec "a") = .ok [.drive (.din [0x61]), .command 0x02000000] ∧
    assemble (.hexdec (String.singleton (Char.ofNat 0xE9))) = .error .notAscii := by
  refine ⟨by decide, by decide, by decide +kernel, by decide +kernel⟩

theorem witness_AssemblerRefusals : 65536 ≤ (ImmText.decimal 65536).value ∧ 2 ≤ (ImmText.decimal 2).value ∧ 17 < 18 ∧
    (∀ f : Field, FieldRef.index 18 = .mnemonic f ∨ FieldRef.index 18 = .index f.index.val → f.cls ≠ .lum) ∧
    (∀ f : Field, FieldRef.mnemonic .VER = .mnemonic f ∨ FieldRef.mnemonic .VER = .index f.index.val →
      f.cls ≠ .enum ∧ f.cls ≠ .bool) ∧
    (∀ f : Field, FieldRef.mnemonic .DMV = .mnemonic f ∨ FieldRef.mnemonic .DMV = .index f.index.val → f.cls ≠ .bool) := by
  refine ⟨by decide, by decide, by decide, fun f => ?_, fun f => ?_, fun f => ?_⟩ <;> cases f <;> decide

theorem witness_StepRunsDecodedCommand : (withHost [.command 0x03000000]).host = .command 0x03000000 :: [] ∧
    decodeCmd 0x03000000 = .ok .encode ∧ decodeTableWord 32 0x03000000 = some .encode := by decide

theorem witness_StepTakesHostInputs : (withHost []).host = [] ∧
    (withHost [.drive (.din (List.replicate 255 0))]).host = .drive (.din (List.replicate 255 0)) :: [] ∧
    (List.replicate 255 (0 : Byte)).length ≤ 255 ∧
    (withHost [.drive (.din (List.replicate 256 0))]).host = .drive (.din (List.replicate 256 0)) :: [] ∧
    255 < (List.replicate 256 (0 : Byte)).length ∧
    (withHost [.drive (.lblIn .fourX)]).host = .drive (.lblIn .fourX) :: [] ∧
    (withHost [.drive (.nitsIn 97)]).host = .drive (.nitsIn 97) :: [] ∧
    (withHost [.drive (.pnameIn .empty)]).host = .drive (.pnameIn .empty) :: [] :=
  ⟨rfl, rfl, by rw [List.length_replicate], rfl, by rw [List.length_replicate]; decide, rfl, rfl, rfl⟩

theorem witness_ResetLeavesPorts : (withHost [.reset]).host = .reset :: [] := rfl

theorem witness_ResetValues : (withHost [.reset]).host = .reset :: [] := rfl

theorem witness_ValidBitsAndHostReads :
    (∃ t, step { withHost [.command 0x00000000] with recOut := .holds 1 } = .next t) ∧
    (withHost [.command 0x00000000]).host.head? ≠ some .reset ∧
    (∃ t, step (withHost [.command 0x03000000]) = .next t ∧ (withHost [.command 0x03000000]).recOut.valid = false ∧
      t.recOut.valid = true) ∧
    (∃ t, step (withHost [.command 0x0B000000]) = .next t ∧ t.result.valid = true) ∧
    (∃ t, step (withHost [.command 0x11040000]) = .next t ∧ t.nitsOut.valid = true) ∧
    (∃ t, step (withHost [.command 0x1A020001]) = .next t ∧ t.labelOut.valid = true) ∧
    (withHost [.read .hexOut]).host = .read .hexOut :: [] ∧
    (∃ t, performWord 0x01000000 State.reset = .next t ∧ statusErr t.status ≠ 0) :=
  ⟨⟨_, rfl⟩, by decide, ⟨_, rfl, rfl, rfl⟩, ⟨_, rfl, rfl⟩, ⟨_, rfl, rfl⟩, ⟨_, rfl, rfl⟩, rfl, ⟨_, rfl, by decide⟩⟩

theorem witness_HostReadsGiveTheRegisters : ∃ s : State, s.recOut = .holds 1 ∧ s.result = .holds 2 ∧ s.nitsOut = .holds 3 ∧
    s.labelOut = .holds .unrecognized ∧ State.reset.recOut.valid = false ∧ State.reset.result.valid = false ∧
    State.reset.nitsOut.valid = false ∧ State.reset.labelOut.valid = false :=
  ⟨{ State.reset with recOut := .holds 1, result := .holds 2, nitsOut := .holds 3, labelOut := .holds .unrecognized },
    by decide⟩

theorem witness_DecodeCommand : (withDin []).din.length ≠ 7 ∧ (withDin (List.replicate 6 0)).din.length ≠ 7 ∧
    (withDin (List.replicate 8 0)).din.length ≠ 7 ∧
    (withDin octetsD1).din = [0x48, 0x03, 0x76, 0x82, 0x5e, 0x6d, 0x95] := by decide

/-- The two digits of position i of `charsD1`, as values. -/
def digitsD1 : Fin 14 → BitVec 4 := fun i => [4, 8, 0, 3, 7, 6, 8, 2, 5, 14, 6, 13, 9, 5].getD i.val 0

theorem witness_HexdecCommand : (withDin (List.replicate 13 0x30)).din.length ≠ 14 ∧
    (withDin (List.replicate 15 0x30)).din.length ≠ 14 ∧
    ((withDin (charsD1.set 13 0x67)).din.length = 14 ∧ hexval ((withDin (charsD1.set 13 0x67)).din.getD 13 0) = none ∧
      ∀ j < 13, hexval ((withDin (charsD1.set 13 0x67)).din.getD j 0) ≠ none) ∧
    (hexval ((withDin (charsD1.set 0 0x78)).din.getD 0 0) = none) ∧
    ((withDin charsD1).din.length = 14 ∧ ∀ i : Fin 14, hexval ((withDin charsD1).din.getD i.val 0) = some (digitsD1 i)) := by
  decide

theorem inWidth_reset : InWidth State.reset := by
  intro f
  rw [State.field_reset]
  exact Nat.two_pow_pos _

theorem witness_EncodeCommand :
    (2 ^ Field.BY.width ≤ ((State.reset.setField .BY 8).field .BY).toNat ∧
      ∀ g : Field, g.index < Field.BY.index →
        ((State.reset.setField .BY 8).field g).toNat < 2 ^ g.width) ∧
    (∀ f : Field, (State.reset.field f).toNat < 2 ^ f.width) := by
  refine ⟨⟨by decide, fun g hg => ?_⟩, inWidth_reset⟩
  cases g <;> first | decide | exact absurd hg (by decide)

theorem witness_PackPlacesEachField : 0 < 56 ∧ 55 < 56 := by decide

theorem witness_HexOutSpellsTheRecord : State.reset.recOut.valid = false ∧
    ({ State.reset with recOut := .holds 5 } : State).recOut = .holds 5 := by decide

theorem witness_DecodeAndHexdecAgree : (withDin octetsD1).din = recordBytes 0x480376825e6d95 ∧
    (withDin charsD1).din.length = 14 ∧
    ∀ i < 7, hexval ((withDin charsD1).din.getD (2 * i) 0) = some ((recordByte 0x480376825e6d95 i).extractLsb' 4 4) ∧
      hexval ((withDin charsD1).din.getD (2 * i + 1) 0) = some ((recordByte 0x480376825e6d95 i).extractLsb' 0 4) := by
  decide

theorem witness_RecordRoundTrip : (withDin octetsD1).din = recordBytes 0x480376825e6d95 ∧
    (withDin charsD1).din.length = 14 ∧
    ∀ i < 7, hexval ((withDin charsD1).din.getD (2 * i) 0) = some ((recordByte 0x480376825e6d95 i).extractLsb' 4 4) ∧
      hexval ((withDin charsD1).din.getD (2 * i + 1) 0) = some ((recordByte 0x480376825e6d95 i).extractLsb' 0 4) :=
  witness_DecodeAndHexdecAgree

theorem witness_FieldSetRoundTrip : InWidth stateD1 := by
  intro f
  cases f <;> decide

theorem witness_ReservedBitPassesThrough :
    ((withDin octetsD1).din.length = 7 ∧ ∃ t, exec .decode (withDin octetsD1) = .next t) ∧
    ((withDin charsD1).din.length = 14 ∧ ∃ t, exec .hexdec (withDin charsD1) = .next t ∧ t.status = 0x0000) ∧
    (∃ t, exec .encode State.reset = .next t ∧ statusErr t.status = 0 ∧ t.recOut = .holds 0) ∧
    (∃ t, exec .newfs State.reset = .next t) ∧ (1 : RegVal).toNat < 2 ∧
    (¬ MayChangeRsvd (.ldf .VER 1) State.reset ∧ ¬ MayChangeRsvd .decode (withDin [1]) ∧
      ∃ t, exec (.ldf .VER 1) State.reset = .next t) ∧
    (Instr.getl .DMV ≠ .encode ∧ Instr.getl .DMV ≠ .rdf .RSVD ∧ ∃ t, exec (.getl .DMV) State.reset = .next t) :=
  ⟨⟨rfl, ⟨_, rfl⟩⟩, ⟨rfl, ⟨_, rfl, by decide⟩⟩, ⟨_, rfl, by decide, by decide⟩, ⟨_, rfl⟩, by decide,
    ⟨by simp [MayChangeRsvd], by simp [MayChangeRsvd, withDin], ⟨_, rfl⟩⟩, by decide, by decide, ⟨_, rfl⟩⟩

/-- DECODE, then NOP, then ENCODE. -/
def rsvdScript : State :=
  { withDin octetsD1 with host := [.command 0x01000000, .command 0x00000000, .command 0x03000000] }

theorem witness_ReservedBitSurvivesToEncode : ∃ s1 u t : State, rsvdScript.host = .command 0x01000000 :: rsvdScript.host.tail ∧
    rsvdScript.din = recordBytes 0x480376825e6d95 ∧ step rsvdScript = .next s1 ∧
    (∀ j < 1, ∀ v, Sys2Proof.core.run j s1 = .next v → NextInputKeepsRsvd v) ∧
    Sys2Proof.core.run 1 s1 = .next u ∧ u.host = .command 0x03000000 :: [] ∧ step u = .next t ∧ statusErr t.status = 0 := by
  refine ⟨_, _, _, rfl, by decide, rfl, ?_, rfl, rfl, rfl, by decide⟩
  intro j hj v hv
  obtain rfl : j = 0 := by omega
  cases hv
  intro e rest he
  cases he
  refine ⟨by decide, fun w i hw hd => ?_⟩
  cases hw
  cases hd
  exact id

theorem witness_ReservedBitKeptByStep : ∃ t, NextInputKeepsRsvd (withHost [.command 0x00000000]) ∧
    step (withHost [.command 0x00000000]) = .next t := by
  refine ⟨_, ?_, rfl⟩
  intro e rest he
  cases he
  refine ⟨by decide, fun w i hw hd => ?_⟩
  cases hw
  cases hd
  exact id

/-- The conditions of the rejected words of each command, at the ends of their ranges (NOP, LDF and SETF, RDF, LUMSET and
LUMGET, SETL, GETL and ENUML, SETB and GETB, SETP). -/
theorem witness_commandWords :
    (wordOp 0x00200000 = 0x00 ∧ (0x00200000 : Word) ≠ 0x00000000) ∧
    (wordOp 0x09120000 = 0x09 ∧ 17 < (wordF 0x09120000).toNat) ∧ (wordOp 0x0A1F0000 = 0x0A ∧ 17 < (wordF 0x0A1F0000).toNat) ∧
    (wordOp 0x0B000001 = 0x0B ∧ wordImm 0x0B000001 ≠ 0) ∧ (wordOp 0x10000000 = 0x10 ∧ (wordF 0x10000000).toNat ∉ [4, 7]) ∧
    (wordOp 0x11080000 = 0x11 ∧ (wordF 0x11080000).toNat ∉ [4, 7]) ∧
    (wordOp 0x18080000 = 0x18 ∧ (wordF 0x18080000).toNat ∉ [1, 2, 3, 5, 6, 9, 11, 13]) ∧
    (wordOp 0x19200000 = 0x19 ∧ wordZ 0x19200000 ≠ 0) ∧ (wordOp 0x1AE00000 = 0x1A ∧ wordZ 0x1AE00000 ≠ 0) ∧
    (wordOp 0x1B020002 = 0x1B ∧ 2 ≤ (wordImm 0x1B020002).toNat) ∧
    (wordOp 0x1C010000 = 0x1C ∧ (wordF 0x1C010000).toNat ∉ [2, 3, 5, 11, 13]) ∧
    (wordOp 0x20000001 = 0x20 ∧ (0x20000001 : Word) ≠ 0x20000000) := by decide

theorem witness_NopCommand : Instr.newfs ≠ .nop := by decide

theorem witness_LdfCommand : 2 ^ Field.GXH.width ≤ (128 : RegVal).toNat ∧ 2 ^ Field.GDIM.width ≤ (2 : RegVal).toNat ∧
    (Instr.getb .GDIM).wf = true := by decide

theorem witness_SetfCommand : 2 ^ Field.GXH.width ≤ (128 : RegVal).toNat ∧ (127 : RegVal).toNat < 2 ^ Field.GXH.width := by
  decide

theorem witness_OnlyLdfStoresOverflowingValues :
    ((∀ f v, Instr.nop ≠ .ldf f v) ∧ ∃ t, exec .nop State.reset = .next t) ∧
    2 ^ Field.GDIM.width ≤ ((State.reset.setField .GDIM 2).field .GDIM).toNat ∧ (Instr.getb .GDIM).wf = true ∧
    (1 : RegVal).toNat < 2 ^ Field.GDIM.width :=
  ⟨⟨fun _ _ h => (nomatch h), ⟨_, rfl⟩⟩, by decide, by decide, by decide⟩

/-- A strictly increasing table, with x below it, above it, and between two entries on either side of the midpoint. -/
theorem witness_NearestIsLowestClosest : (∀ i : Fin 31, (i.castSucc.val : Rat) < i.succ.val) ∧
    ((-1 : Rat) ≤ (0 : Fin 32).val) ∧ (((31 : Fin 32).val : Rat) ≤ 100) ∧
    (((3 : Fin 31).castSucc.val : Rat) ≤ 7 / 2 ∧ (7 / 2 : Rat) < (3 : Fin 31).succ.val) := by decide +kernel

theorem witness_LumsetCommand : (Field.MINLUM = .MINLUM ∧ Config.minLumTable = Config.minLumTable) ∧
    (Field.MAXLUM = .MAXLUM ∧ Config.maxLumTable = Config.maxLumTable) := ⟨⟨rfl, rfl⟩, rfl, rfl⟩

theorem witness_LumgetCommand : 32 ≤ ((State.reset.setField .MINLUM 32).field .MINLUM).toNat ∧
    ((State.reset.setField .MAXLUM 31).field .MAXLUM).toNat = (31 : Fin 32).val := by decide

theorem witness_LookupLaws : lumTable .MINLUM = some Config.minLumTable ∧ lumTable .MAXLUM = some Config.maxLumTable ∧
    ({ State.reset with nitsIn := Config.minLumTable 31 } : State).nitsIn = Config.minLumTable 31 := ⟨rfl, rfl, rfl⟩

theorem witness_LabelMapsAreInverse : LabelTableOk 1 ltBool := ⟨by decide, by decide, by decide⟩

theorem witness_LabelTables : LabelTableOf .BLC ltBool ∧ LabelTableOf .DMV Config.ltDmv ∧
    LabelTableOf .BLMIN Config.ltBlmin ∧ LabelTableOf .IFMODE Config.ltIfmode ∧
    (wordOp 0x18000000 ∈ ([0x18, 0x19, 0x1A] : List (BitVec 8)) ∧
      (wordF 0x18000000).toNat ∉ [1, 2, 3, 5, 6, 9, 11, 13]) :=
  ⟨.inl ⟨by decide, rfl⟩, .inr (.inl ⟨rfl, rfl⟩), .inr (.inr (.inl ⟨rfl, rfl⟩)), .inr (.inr (.inr ⟨rfl, rfl⟩)), by decide⟩

theorem witness_SetlCommand : LabelTableOf .BLC ltBool ∧ (⟨.supported, 1⟩ : LabelEntry) ∈ ltBool ∧
    LabelTableOf .DMV Config.ltDmv ∧ (⟨.fourX, 2⟩ : LabelEntry) ∈ Config.ltDmv ∧ (∀ e ∈ ltBool, e.label ≠ .fourX) ∧
    ({ State.reset with lblIn := .fourX } : State).lblIn = .fourX :=
  ⟨witness_LabelTables.1, by decide, witness_LabelTables.2.1, Config.given.ok.dmv4x, by decide, rfl⟩

/-- DMV has an unrecognized in-width code whatever its table is: with three entries, one of four codes has none. -/
theorem dmv_unrecognized : ∃ c : RegVal, c.toNat < 2 ^ Field.DMV.width ∧ ∀ e ∈ Config.ltDmv, e.code ≠ c := by
  by_contra hall
  push Not at hall
  have sub : ([0, 1, 2, 3] : List RegVal) ⊆ Config.ltDmv.map LabelEntryIn.code := by
    intro c hc
    obtain ⟨e, he, rfl⟩ := hall c (by
      simp only [List.mem_cons, List.not_mem_nil, or_false] at hc
      rcases hc with rfl | rfl | rfl | rfl <;> decide)
    exact List.mem_map_of_mem he
  have hl := (List.subperm_of_subset (by decide) sub).length_le
  have h3 : Config.ltDmv.length = 3 := Config.given.ok.dmvThree
  simp [h3] at hl

theorem witness_GetlCommand : LabelTableOf .BLC ltBool ∧
    2 ^ Field.BLC.width ≤ ((State.reset.setField .BLC 2).field .BLC).toNat ∧
    ((State.reset.setField .BLC 1).field .BLC).toNat < 2 ^ Field.BLC.width ∧
    (∃ e ∈ ltBool, e.code = (State.reset.setField .BLC 1).field .BLC) ∧
    (∃ c : RegVal, ((State.reset.setField .DMV c).field .DMV).toNat < 2 ^ Field.DMV.width ∧
      ∀ e ∈ Config.ltDmv, e.code ≠ (State.reset.setField .DMV c).field .DMV) := by
  refine ⟨witness_LabelTables.1, by decide, by decide, by decide, ?_⟩
  obtain ⟨c, h1, h2⟩ := dmv_unrecognized
  exact ⟨c, by simpa using h1, by simpa using h2⟩

theorem witness_UnrecognizedCodes : Field.BLMIN ≠ .DMV ∧ labelTable .BLMIN = some Config.ltBlmin ∧
    (3 : RegVal).toNat < 2 ^ Field.BLMIN.width := ⟨by decide, rfl, by decide⟩

theorem witness_EnumlCommand : LabelTableOf .BLC ltBool ∧ (1 : RegVal).toNat < ltBool.length ∧
    ltBool.length ≤ (2 : RegVal).toNat ∧ ltBool.length ≤ (65535 : RegVal).toNat :=
  ⟨witness_LabelTables.1, by decide, by decide, by decide⟩

theorem witness_EnumeratedLabelsAreAccepted : ∃ t, exec (.enuml .BLC 1) State.reset = .next t ∧ t.status = 0x0000 ∧
    t.labelOut = .holds (.label .supported) := ⟨_, rfl, by decide, by decide⟩

theorem witness_SetbCommand : Field.GDIM.cls = .bool ∧
    ({ State.reset with lblIn := .supported } : State).lblIn = (if true then .supported else .notSupported) ∧
    ({ State.reset with lblIn := .notSupported } : State).lblIn = (if false then .supported else .notSupported) := by
  decide

theorem witness_GetbCommand : Field.GDIM.cls = .bool ∧ 2 ≤ ((State.reset.setField .GDIM 2).field .GDIM).toNat ∧
    ((State.reset.setField .GDIM 1).field .GDIM).toNat < 2 := by decide

/-- Some preset is a placeholder. R173 leaves open whether a name is not registered, so the second condition is met where
`n` is such a name, and the third clause says that the constraints of the parameters admit one. -/
theorem witness_SetpCommand : (∃ (s : State) (p : Preset), p ∈ Config.presets ∧ p.name = s.pnameIn ∧ p.placeholder = true) ∧
    (∀ n : PresetName, (∀ p ∈ Config.presets, p.name ≠ n) → ∃ s : State, ∀ p ∈ Config.presets, p.name ≠ s.pnameIn) ∧
    (∃ given : Config.Params, Config.ParamsOk given ∧ ∃ n, ∀ p ∈ given.presets, p.name ≠ n) := by
  refine ⟨?_, fun n h => ⟨{ State.reset with pnameIn := n }, h⟩, Config.someParams, Config.someParams_ok, ⟨"a", rfl⟩, by decide⟩
  have h : 0 < Config.presets.countP PresetIn.placeholder := by
    have := Config.given.ok.presets.twoPlaceholders
    unfold Config.presets
    omega
  obtain ⟨p, hp, hh⟩ := List.countP_pos_iff.mp h
  exact ⟨{ State.reset with pnameIn := p.name }, p, hp, rfl, hh⟩

theorem witness_PlaceholderPresetsWriteZeros :
    ∃ (s t : State) (p : Preset), p ∈ Config.presets ∧ p.name = s.pnameIn ∧ exec .setp s = .next t := by
  obtain ⟨s, p, hp, hn, -⟩ := witness_SetpCommand.1
  exact ⟨s, _, p, hp, hn, rfl⟩

theorem witness_ErrorsArePrecise : ∃ t, performWord 0x04000000 State.reset = .next t ∧ statusErr t.status ≠ 0 :=
  ⟨_, rfl, by decide⟩

/-- Commands that write each output register, and one that writes none. -/
theorem witness_CommandsIgnoreStatusAndOutputs : (∃ t, exec .encode State.reset = .next t ∧ WritesRecOut .encode t) ∧
    (∃ t, exec (.enuml .BLC 0) State.reset = .next t ∧ WritesResult (.enuml .BLC 0) t ∧ WritesLabelOut (.enuml .BLC 0) t) ∧
    (∃ t, exec (.lumget .MINLUM) State.reset = .next t ∧ WritesNitsOut (.lumget .MINLUM) t) ∧
    (∃ t, exec .nop State.reset = .next t ∧ ¬ WritesRecOut .nop t ∧ ¬ WritesResult .nop t ∧ ¬ WritesNitsOut .nop t ∧
      ¬ WritesLabelOut .nop t) :=
  ⟨⟨_, rfl, rfl, by decide⟩, ⟨_, rfl, .inr ⟨⟨_, _, rfl⟩, by decide⟩, .inr ⟨⟨_, _, rfl⟩, by decide⟩⟩,
    ⟨_, rfl, ⟨_, rfl⟩, by decide⟩,
    ⟨_, rfl, by simp [WritesRecOut], by simp [WritesResult], by simp [WritesNitsOut], by simp [WritesLabelOut]⟩⟩

/-- A next state for the obligations that start from any answered command. -/
theorem witness_answeredCommand : (∃ t, exec .decode (withDin octetsD1) = .next t ∧ t.field .VER ≠ (withDin octetsD1).field .VER) ∧
    (∃ t, exec .encode State.reset = .next t ∧ t.recOut ≠ State.reset.recOut) ∧
    (∃ t, exec (.rdf .VER) State.reset = .next t ∧ t.result ≠ State.reset.result) ∧
    (∃ t, exec (.lumget .MINLUM) State.reset = .next t ∧ t.nitsOut ≠ State.reset.nitsOut) ∧
    (∃ t, exec (.enuml .BLC 0) State.reset = .next t ∧ t.labelOut ≠ State.reset.labelOut) ∧
    (Instr.lumget .MINLUM).wf = true :=
  ⟨⟨_, rfl, by decide⟩, ⟨_, rfl, by decide⟩, ⟨_, rfl, by decide⟩, ⟨_, rfl, fun h => nomatch h⟩, ⟨_, rfl, by decide⟩, by decide⟩

/-- The invariant's premise is met, in a state that steps on. -/
theorem witness_InvariantKeptByStep : ∃ t, Inv (withHost [.command 0x01000000]) ∧
    step (withHost [.command 0x01000000]) = .next t := by
  refine ⟨_, ⟨⟨by decide, by decide, by decide, by decide, by decide, by decide⟩, ⟨?_, ?_⟩, by decide⟩, rfl⟩
  · intro x h; cases h
  · intro l h; cases h

end Sys2Proof.Machine
end

