-- ==== Sys2Proof/Proofs/Scope.lean ====
section
/-! PROOFS. The statements of 00_scope.md: what a step does with a command word, and what a host read gives. Before each
stand the rules it rests on: the decoder at a table's word, and one equation per read port. -/

namespace Sys2Proof

/-- A word of the table reads as an instruction where it fits and the decoder accepts it. -/
theorem decodeTableWord_eq_some {nbits w : Nat} {i : Instr} :
    decodeTableWord nbits w = some i ↔
      (w < 2 ^ nbits ∧ w < 2 ^ 32) ∧ decodeCmd (BitVec.ofNat 32 w) = .ok i := by
  unfold decodeTableWord
  cases decodeCmd (BitVec.ofNat 32 w) <;> simp

end Sys2Proof

namespace Sys2Proof.Machine

/-! ### A step on a command word -/

@[simp] theorem performInput_command (w : Word) (s : State) : performInput (.command w) s = performWord w s := rfl

theorem step_of_command {s : State} {w : Word} {rest : List HostInput} (h : s.host = .command w :: rest) :
    step s = performWord w { s with host := rest } := by
  rw [step_of_cons h, performInput_command]

/-- The presented word is taken off the script again, so the state it runs at is the one before the presentation. -/
theorem step_withFetchWord (s : State) (nbits w : Nat) :
    step (s.withFetchWord nbits w) = performWord (BitVec.ofNat 32 w) s :=
  step_of_command rfl

/-- Settles O10: R76's decoder picks the instruction, and the step runs it (R11, R34). -/
theorem stepRunsDecodedCommand : Obligations.StepRunsDecodedCommand := by
  refine ⟨fun s w rest i hhost hdec => ?_, fun s nbits w i htab => ?_⟩
  · rw [step_of_command hhost, performWord_of_ok hdec]
  · obtain ⟨-, hdec⟩ := decodeTableWord_eq_some.mp htab
    rw [step_withFetchWord, performWord_of_ok hdec]

/-! ### Output registers and the record's bytes -/

@[simp] theorem OutReg.valid_holds {α : Type} (v : α) : (OutReg.holds v).valid = true := rfl

@[simp] theorem OutReg.valid_eq_false {α : Type} {r : OutReg α} : r.valid = false ↔ r = .noValue := by
  cases r <;> simp [OutReg.valid]

@[simp] theorem OutReg.observe_noValue {α : Type} (f : α → Observation) : OutReg.noValue.observe f = none := rfl

@[simp] theorem OutReg.observe_holds {α : Type} (v : α) (f : α → Observation) :
    (OutReg.holds v).observe f = some (f v) := rfl

theorem OutReg.observe_of_not_valid {α : Type} {r : OutReg α} (h : r.valid = false) (f : α → Observation) :
    r.observe f = none := by
  rw [OutReg.valid_eq_false.mp h, OutReg.observe_noValue]

@[simp] theorem recordBytes_length (r : Record) : (recordBytes r).length = 7 := rfl

/-- Byte i in wire order is the record's slice 55-8i:48-8i (R23, R27). -/
theorem recordBytes_getD (r : Record) {i : Nat} (hi : i < 7) (d : Byte) : (recordBytes r).getD i d = recordByte r i := by
  simp [recordBytes, hi]

/-! ### What each read port gives -/

@[simp] theorem observe_recOut (s : State) : observe (.value .recOut) s = s.recOut.observe .record := rfl
@[simp] theorem observe_result (s : State) : observe (.value .result) s = s.result.observe .value := rfl
@[simp] theorem observe_nitsOut (s : State) : observe (.value .nitsOut) s = s.nitsOut.observe .nits := rfl
@[simp] theorem observe_labelOut (s : State) : observe (.value .labelOut) s = s.labelOut.observe .label := rfl
@[simp] theorem observe_recBytes (s : State) :
    observe .recBytes s = s.recOut.observe fun r => .bytes (recordBytes r) := rfl

/-- The record register's two views, as a value and as the 7 bytes. -/
theorem observe_recOut_of_holds {s : State} {r : Record} (h : s.recOut = .holds r) :
    observe (.value .recOut) s = some (.record r) ∧
      ∃ bs, observe .recBytes s = some (.bytes bs) ∧ bs.length = 7 ∧
        ∀ i < 7, bs.getD i 0 = r.extractLsb' (48 - 8 * i) 8 := by
  refine ⟨by simp [h], recordBytes r, by simp [h], recordBytes_length r, fun i hi => ?_⟩
  rw [recordBytes_getD r hi, recordByte]

/-- Settles O15: a read of an output register follows its valid bit (R31); the other reads give what the state holds. -/
theorem hostReadsGiveTheRegisters : Obligations.HostReadsGiveTheRegisters := by
  intro s
  refine ⟨fun r h => observe_recOut_of_holds h, fun v h => ?_, fun x h => ?_, fun l h => ?_,
    fun h => ⟨?_, ?_⟩, fun h => ?_, fun h => ?_, fun h => ?_, rfl, rfl, rfl, rfl, rfl⟩
  · rw [observe_result, h, OutReg.observe_holds]
  · rw [observe_nitsOut, h, OutReg.observe_holds]
  · rw [observe_labelOut, h, OutReg.observe_holds]
  · exact OutReg.observe_of_not_valid h _
  · exact OutReg.observe_of_not_valid h _
  · exact OutReg.observe_of_not_valid h _
  · exact OutReg.observe_of_not_valid h _
  · exact OutReg.observe_of_not_valid h _

end Sys2Proof.Machine
end

section
/-! PROOFS. The statements of 10_state.md. First what each command does, as a relation that says exactly what `exec`
answers: the errors it raises with their details, and the effect that completes it. Then, each from that relation,
what a command leaves in the field registers, STATUS and the output registers, what a step does to them, and what a
command does not read. -/

namespace Sys2Proof.Machine

/-! ### Classes, tables and widths -/

/-- LUMSET and LUMGET take the fields that have a luminance table (R73, R140). -/
@[simp] theorem wf_lumset (f : Field) : (Instr.lumset f).wf = (lumTable f).isSome := by cases f <;> rfl
@[simp] theorem wf_lumget (f : Field) : (Instr.lumget f).wf = (lumTable f).isSome := wf_lumset f

/-- SETL, GETL and ENUML take the fields that have a label table (R73, R161). -/
@[simp] theorem wf_setl (f : Field) : (Instr.setl f).wf = (labelTable f).isSome := by cases f <;> rfl
@[simp] theorem wf_getl (f : Field) : (Instr.getl f).wf = (labelTable f).isSome := wf_setl f
@[simp] theorem wf_enuml (f : Field) (k : RegVal) : (Instr.enuml f k).wf = (labelTable f).isSome := wf_setl f

/-- SETB and GETB take the boolean-like fields (R73). -/
@[simp] theorem wf_setb (f : Field) (b : Bool) : (Instr.setb f b).wf = decide (f.cls = .bool) := by cases f <;> rfl
@[simp] theorem wf_getb (f : Field) : (Instr.getb f).wf = decide (f.cls = .bool) := wf_setb f false

/-- LDF, SETF and RDF take every class (R73). -/
theorem any_contains_cls (f : Field) : FieldClass.any.contains f.cls = true := by cases f <;> rfl

theorem cls_of_lumTable {f : Field} {T : LumTable} (h : lumTable f = some T) : f.cls = .lum := by
  revert h
  cases f <;> simp [lumTable, Field.cls]

theorem cls_of_labelTable {f : Field} {lt : LabelTable} (h : labelTable f = some lt) :
    f.cls = .enum ∨ f.cls = .bool := by
  revert h
  cases f <;> simp [labelTable, Field.cls]

theorem width_of_lum {f : Field} (h : f.cls = .lum) : f.width = 5 := by
  revert h
  cases f <;> decide

theorem width_of_bool {f : Field} (h : f.cls = .bool) : f.width = 1 := by
  revert h
  cases f <;> decide

/-! ### The two ways a command ends (R33) -/

/-- Command i, issued in state s, raises the error e with this detail (60_exceptions.md R200 to R202, R205). -/
inductive Raises (s : State) : Instr → ErrorKind → BitVec 5 → Prop
  | illFormed {i : Instr} (hwf : i.wf = false) : Raises s i .illegalCommand 0
  | decodeLength (hlen : s.din.length ≠ 7) : Raises s .decode .invalidLength 0
  | hexdecLength (hlen : s.din.length ≠ 14) : Raises s .hexdec .invalidLength 0
  | hexdecCharacter {n : Nat} (hlen : s.din.length = 14) (hbad : firstNonHex s.din = some n) :
      Raises s .hexdec .invalidHexCharacter (BitVec.ofNat 5 n)
  | encodeOverflow {f : Field} (hover : firstOverflow s.fs = some f) : Raises s .encode .fieldOverflow (fieldDetail f)
  | setfOverflow {f : Field} {v : RegVal} (hover : ¬ Fits f v) : Raises s (.setf f v) .fieldOverflow (fieldDetail f)
  | readOverflow {i : Instr} {f : Field} (hi : i ∈ [Instr.lumget f, .getl f, .getb f]) (hwf : i.wf = true)
      (hover : ¬ Fits f (s.field f)) : Raises s i .fieldOverflow (fieldDetail f)
  | unknownLabel {f : Field} {lt : LabelTable} (hlt : labelTable f = some lt) (hno : labelToCode lt s.lblIn = none) :
      Raises s (.setl f) .unknownLabel 0
  | unknownPreset (hno : presetNamed s.pnameIn = none) : Raises s .setp .unknownPreset 0

/-- The state with the six fragments of a preset written, in SETP's order (R174). -/
def State.applyPreset (s : State) (p : Preset) : State :=
  (((((s.setField .GXH p.GXH).setField .GY p.GY).setField .RX p.RX).setField .BX p.BX).setField .RY p.RY).setField
    .BY p.BY

/-- Command i takes state s to state t: the error it raises, or the effect of its own that completes it. -/
inductive Effect (s : State) : Instr → State → Prop
  | raised {i : Instr} {e : ErrorKind} {d : BitVec 5} (hr : Raises s i e d) : Effect s i (s.raise e d)
  | nop : Effect s .nop (s.complete {})
  | decode (hlen : s.din.length = 7) :
      Effect s .decode ((s.setAllFields (unpack (recordOfOctets s.din))).complete {})
  | hexdec (hlen : s.din.length = 14) (hok : firstNonHex s.din = none) :
      Effect s .hexdec ((s.setAllFields (unpack (recordOfHex s.din))).complete {})
  | encode (hfit : firstOverflow s.fs = none) :
      Effect s .encode (State.complete { s with recOut := .holds (pack s.fs) } {})
  | newfs : Effect s .newfs ((s.setAllFields Field.default).complete {})
  | ldf (f : Field) (v : RegVal) : Effect s (.ldf f v) ((s.setField f v).complete {})
  | setf {f : Field} {v : RegVal} (hfit : Fits f v) : Effect s (.setf f v) ((s.setField f v).complete {})
  | rdf (f : Field) : Effect s (.rdf f) (State.complete { s with result := .holds (s.field f) } {})
  | lumset {f : Field} {T : LumTable} (hT : lumTable f = some T) :
      Effect s (.lumset f) ((s.setField f (BitVec.ofNat 16 (nearest T s.nitsIn).val)).complete
        { approx := decide (T (nearest T s.nitsIn) ≠ s.nitsIn) })
  | lumget {f : Field} {T : LumTable} (hT : lumTable f = some T) (hfit : (s.field f).toNat < 32) :
      Effect s (.lumget f) (State.complete { s with nitsOut := .holds (T ⟨(s.field f).toNat, hfit⟩) } {})
  | setl {f : Field} {lt : LabelTable} {c : RegVal} (hlt : labelTable f = some lt)
      (hc : labelToCode lt s.lblIn = some c) : Effect s (.setl f) ((s.setField f c).complete {})
  | getl {f : Field} {lt : LabelTable} (hlt : labelTable f = some lt) (hfit : Fits f (s.field f)) :
      Effect s (.getl f) (State.complete { s with labelOut := .holds (codeToLabel lt (s.field f)) }
        { unrec := decide (codeToLabel lt (s.field f) = .unrecognized) })
  | enuml {f : Field} {k : RegVal} {lt : LabelTable} {e : LabelEntry} (hlt : labelTable f = some lt)
      (he : lt[k.toNat]? = some e) :
      Effect s (.enuml f k) (State.complete { s with labelOut := .holds (.label e.label), result := .holds e.code } {})
  | enumlEnd {f : Field} {k : RegVal} {lt : LabelTable} (hlt : labelTable f = some lt) (he : lt[k.toNat]? = none) :
      Effect s (.enuml f k) (s.complete { atEnd := true })
  | setb {f : Field} (b : Bool) (hb : f.cls = .bool) :
      Effect s (.setb f b) ((s.setField f ((BitVec.ofBool b).setWidth 16)).complete {})
  | getb {f : Field} (hb : f.cls = .bool) (hfit : Fits f (s.field f)) :
      Effect s (.getb f) (State.complete { s with result := .holds (s.field f) } {})
  | setp {p : Preset} (hp : presetNamed s.pnameIn = some p) :
      Effect s .setp ((s.applyPreset p).complete { unver := p.placeholder })

/-- An ill-formed instruction reaches its arm's check of the class (R73). -/
theorem exec_of_illFormed {i : Instr} (hwf : i.wf = false) (s : State) :
    exec i s = .next (s.raise .illegalCommand 0) := by
  cases i with
  | nop | decode | hexdec | encode | newfs | setp => cases hwf
  | ldf f v | setf f v | rdf f => exact absurd (any_contains_cls f) (by simpa [Instr.wf, Instr.operand] using hwf)
  | lumset f => simp [exec, execLumset, show lumTable f = none by simpa using hwf]
  | lumget f => simp [exec, execLumget, show lumTable f = none by simpa using hwf]
  | setl f => simp [exec, execSetl, show labelTable f = none by simpa using hwf]
  | getl f => simp [exec, execGetl, show labelTable f = none by simpa using hwf]
  | enuml f k => simp [exec, execEnuml, show labelTable f = none by simpa using hwf]
  | setb f b => simp [exec, execSetb, show ¬ f.cls = .bool by simpa using hwf]
  | getb f => simp [exec, execGetb, show ¬ f.cls = .bool by simpa using hwf]

/-- A register that does not fit stops the three reads through a mapper or a table. -/
theorem exec_of_readOverflow {i : Instr} {f : Field} {s : State} (hi : i ∈ [Instr.lumget f, .getl f, .getb f])
    (hwf : i.wf = true) (hover : ¬ Fits f (s.field f)) : exec i s = .next (s.raise .fieldOverflow (fieldDetail f)) := by
  simp only [List.mem_cons, List.not_mem_nil, or_false] at hi
  obtain rfl | rfl | rfl := hi
  · rw [wf_lumget, Option.isSome_iff_exists] at hwf
    obtain ⟨T, hT⟩ := hwf
    have : ¬ (s.field f).toNat < 32 := by simpa [Fits, width_of_lum (cls_of_lumTable hT)] using hover
    simp [exec, execLumget, hT, this]
  · rw [wf_getl, Option.isSome_iff_exists] at hwf
    obtain ⟨lt, hlt⟩ := hwf
    simp [exec, execGetl, hlt, overflows_eq_true.mpr hover]
  · rw [wf_getb, decide_eq_true_iff] at hwf
    have : 2 ≤ (s.field f).toNat := Nat.le_of_not_lt (by simpa [Fits, width_of_bool hwf] using hover)
    simp [exec, execGetb, hwf, this]

/-- Each error is the answer of the command's arm where its condition holds. -/
theorem exec_of_raises {s : State} {i : Instr} {e : ErrorKind} {d : BitVec 5} (h : Raises s i e d) :
    exec i s = .next (s.raise e d) := by
  cases h with
  | illFormed hwf => exact exec_of_illFormed hwf s
  | decodeLength hlen => simp [exec, execDecode, hlen]
  | hexdecLength hlen => simp [exec, execHexdec, hlen]
  | hexdecCharacter hlen hbad => simp [exec, execHexdec, hlen, hbad]
  | encodeOverflow hover => simp [exec, execEncode, hover]
  | setfOverflow hover => simp [exec, execSetf, overflows_eq_true.mpr hover]
  | readOverflow hi hwf hover => exact exec_of_readOverflow hi hwf hover
  | unknownLabel hlt hno => simp [exec, execSetl, hlt, hno]
  | unknownPreset hno => simp [exec, execSetp, hno]

/-- Each effect is the answer of the command's arm: after this no proof unfolds an arm's branches. -/
theorem exec_of_effect {s t : State} {i : Instr} (h : Effect s i t) : exec i s = .next t := by
  cases h with
  | raised hr => exact exec_of_raises hr
  | nop | newfs | ldf | rdf => rfl
  | decode hlen => simp [exec, execDecode, hlen]
  | hexdec hlen hok => simp [exec, execHexdec, hlen, hok]
  | encode hfit => simp [exec, execEncode, hfit]
  | setf hfit => simp [exec, execSetf, overflows_eq_false.mpr hfit]
  | lumset hT => simp [exec, execLumset, hT]
  | lumget hT hfit => simp [exec, execLumget, hT, hfit]
  | setl hlt hc => simp [exec, execSetl, hlt, hc]
  | getl hlt hfit => simp [exec, execGetl, hlt, overflows_eq_false.mpr hfit]
  | enuml hlt he => simp [exec, execEnuml, hlt, he]
  | enumlEnd hlt he => simp [exec, execEnuml, hlt, he]
  | setb b hb => simp [exec, execSetb, hb]
  | @getb f hb hfit =>
    have : ¬ 2 ≤ (s.field f).toNat := by simpa [Fits, width_of_bool hb] using hfit
    simp [exec, execGetb, hb, this]
  | setp hp => simp [exec, execSetp, hp, State.applyPreset]

/-- The effect of a command is the state it leaves. -/
theorem Effect.eq_of_exec {s t u : State} {i : Instr} (hu : Effect s i u) (h : exec i s = .next t) : u = t := by
  simpa [exec_of_effect hu] using h

/-- Every command has an effect in every state (R204). -/
theorem effect_total (i : Instr) (s : State) : ∃ t, Effect s i t := by
  cases hwf : i.wf with
  | false => exact ⟨_, .raised (.illFormed hwf)⟩
  | true =>
    cases i with
    | nop => exact ⟨_, .nop⟩
    | decode =>
      by_cases hlen : s.din.length = 7
      · exact ⟨_, .decode hlen⟩
      · exact ⟨_, .raised (.decodeLength hlen)⟩
    | hexdec =>
      by_cases hlen : s.din.length = 14
      · cases hbad : firstNonHex s.din with
        | none => exact ⟨_, .hexdec hlen hbad⟩
        | some n => exact ⟨_, .raised (.hexdecCharacter hlen hbad)⟩
      · exact ⟨_, .raised (.hexdecLength hlen)⟩
    | encode =>
      cases hover : firstOverflow s.fs with
      | none => exact ⟨_, .encode hover⟩
      | some f => exact ⟨_, .raised (.encodeOverflow hover)⟩
    | newfs => exact ⟨_, .newfs⟩
    | ldf f v => exact ⟨_, .ldf f v⟩
    | setf f v =>
      by_cases hfit : Fits f v
      · exact ⟨_, .setf hfit⟩
      · exact ⟨_, .raised (.setfOverflow hfit)⟩
    | rdf f => exact ⟨_, .rdf f⟩
    | lumset f =>
      obtain ⟨T, hT⟩ := Option.isSome_iff_exists.mp (wf_lumset f ▸ hwf)
      exact ⟨_, .lumset hT⟩
    | lumget f =>
      obtain ⟨T, hT⟩ := Option.isSome_iff_exists.mp (wf_lumget f ▸ hwf)
      by_cases hfit : Fits f (s.field f)
      · exact ⟨_, .lumget hT (by simpa [Fits, width_of_lum (cls_of_lumTable hT)] using hfit)⟩
      · exact ⟨_, .raised (.readOverflow (by simp) hwf hfit)⟩
    | setl f =>
      obtain ⟨lt, hlt⟩ := Option.isSome_iff_exists.mp (wf_setl f ▸ hwf)
      cases hc : labelToCode lt s.lblIn with
      | none => exact ⟨_, .raised (.unknownLabel hlt hc)⟩
      | some c => exact ⟨_, .setl hlt hc⟩
    | getl f =>
      obtain ⟨lt, hlt⟩ := Option.isSome_iff_exists.mp (wf_getl f ▸ hwf)
      by_cases hfit : Fits f (s.field f)
      · exact ⟨_, .getl hlt hfit⟩
      · exact ⟨_, .raised (.readOverflow (by simp) hwf hfit)⟩
    | enuml f k =>
      obtain ⟨lt, hlt⟩ := Option.isSome_iff_exists.mp (wf_enuml f k ▸ hwf)
      cases he : lt[k.toNat]? with
      | none => exact ⟨_, .enumlEnd hlt he⟩
      | some e => exact ⟨_, .enuml hlt he⟩
    | setb f b => exact ⟨_, .setb b (of_decide_eq_true (wf_setb f b ▸ hwf))⟩
    | getb f =>
      by_cases hfit : Fits f (s.field f)
      · exact ⟨_, .getb (of_decide_eq_true (wf_getb f ▸ hwf)) hfit⟩
      · exact ⟨_, .raised (.readOverflow (by simp) hwf hfit)⟩
    | setp =>
      cases hp : presetNamed s.pnameIn with
      | none => exact ⟨_, .raised (.unknownPreset hp)⟩
      | some p => exact ⟨_, .setp hp⟩

/-- `Effect` says exactly what the model's `exec` answers. -/
theorem exec_iff_effect {s t : State} {i : Instr} : exec i s = .next t ↔ Effect s i t := by
  refine ⟨fun h => ?_, exec_of_effect⟩
  obtain ⟨u, hu⟩ := effect_total i s
  exact hu.eq_of_exec h ▸ hu

/-! ### What a command writes into a field register (R20) -/

theorem unpack_fits (r : Record) (f : Field) : Fits f (unpack r f) := by
  rw [Fits, unpack, BitVec.toNat_setWidth]
  exact (Nat.mod_le _ _).trans_lt (BitVec.isLt _)

theorem lumIndex_fits {f : Field} (h : f.cls = .lum) (k : Fin 32) : Fits f (BitVec.ofNat 16 k.val) := by
  rw [Fits, width_of_lum h, BitVec.toNat_ofNat]
  omega

theorem labelCode_fits {f : Field} {lt : LabelTable} {l : Label} {c : RegVal} (hlt : labelTable f = some lt)
    (hc : labelToCode lt l = some c) : Fits f c :=
  (labelTable_ok hlt).codesFit _ (mem_of_labelToCode hc)

theorem bit_fits (f : Field) (b : Bool) : Fits f ((BitVec.ofBool b).setWidth 16) := by
  have hb : ((BitVec.ofBool b).setWidth 16).toNat < 2 ^ 1 := by cases b <;> decide
  exact hb.trans_le (Nat.pow_le_pow_right (by decide) f.width_pos)

/-- Command i, issued in state s, completes and puts v into FS[f]. -/
inductive FieldWrite (s : State) (f : Field) (v : RegVal) : Instr → Prop
  | decode (hlen : s.din.length = 7) (hfit : Fits f v) : FieldWrite s f v .decode
  | hexdec (hlen : s.din.length = 14) (hok : firstNonHex s.din = none) (hfit : Fits f v) : FieldWrite s f v .hexdec
  | newfs (hv : v = 0) : FieldWrite s f v .newfs
  | ldf : FieldWrite s f v (.ldf f v)
  | setf (hfit : Fits f v) : FieldWrite s f v (.setf f v)
  | lumset (hcls : f.cls = .lum) (hfit : Fits f v) : FieldWrite s f v (.lumset f)
  | setl (hcls : f.cls = .enum ∨ f.cls = .bool) (hfit : Fits f v) : FieldWrite s f v (.setl f)
  | setb (b : Bool) (hcls : f.cls = .bool) (hfit : Fits f v) : FieldWrite s f v (.setb f b)
  | setp (hcls : f.cls = .chroma) (hfit : Fits f v) : FieldWrite s f v .setp

theorem field_setField (s : State) (f g : Field) (v : RegVal) :
    (s.setField f v).field g = if g = f then v else s.field g := by
  split
  · next h => rw [h, State.field_setField_self]
  · next h => rw [State.field_setField_ne s v h]

/-- SETP's six writes: a fragment of the preset, and only where the field is a chromaticity fragment (R174). -/
theorem field_applyPreset {s : State} {p : Preset} (hp : p ∈ Config.presets) (g : Field) :
    (s.applyPreset p).field g = s.field g ∨ (g.cls = .chroma ∧ Fits g ((s.applyPreset p).field g)) := by
  obtain ⟨hGXH, hGY, hRX, hBX, hRY, hBY⟩ := Config.given.ok.presets.fit p hp
  cases g <;> simp only [State.applyPreset, field_setField, Field.cls, Fits, Field.width] <;> simp [*]

/-- A command whose one write is of field f leaves every other field. -/
theorem fieldWrite_setField {s : State} {i : Instr} {f g : Field} {a : RegVal} {fl : Flags} (h : FieldWrite s f a i) :
    ((s.setField f a).complete fl).field g = s.field g ∨
      FieldWrite s g (((s.setField f a).complete fl).field g) i := by
  by_cases hg : g = f
  · subst hg
    exact .inr (by simpa using h)
  · simp [hg]

/-- A field register a command writes, or leaves as it was. -/
theorem Effect.field {s t : State} {i : Instr} (h : Effect s i t) (g : Field) :
    t.field g = s.field g ∨ FieldWrite s g (t.field g) i := by
  cases h with
  | raised | nop | encode | rdf | lumget | getl | enuml | enumlEnd | getb => exact .inl rfl
  | decode hlen => exact .inr (.decode hlen (by simpa using unpack_fits _ g))
  | hexdec hlen hok => exact .inr (.hexdec hlen hok (by simpa using unpack_fits _ g))
  | newfs => exact .inr (.newfs (by simp [Field.default]))
  | ldf f v => exact fieldWrite_setField .ldf
  | setf hfit => exact fieldWrite_setField (.setf hfit)
  | lumset hT =>
    have hcls := cls_of_lumTable hT
    exact fieldWrite_setField (.lumset hcls (lumIndex_fits hcls _))
  | setl hlt hc => exact fieldWrite_setField (.setl (cls_of_labelTable hlt) (labelCode_fits hlt hc))
  | @setb f b hb => exact fieldWrite_setField (.setb b hb (bit_fits f b))
  | setp hp =>
    obtain h | ⟨hcls, hfit⟩ := field_applyPreset (s := s) (presetNamed_eq_some hp).1 g
    · exact .inl h
    · exact .inr (.setp hcls hfit)

/-! ### Statements on field registers -/

/-- Settles O53 (R20, R57). -/
theorem writersOfFieldRegisters : Obligations.WritersOfFieldRegisters := by
  intro i s t f h hne
  have hw := ((exec_iff_effect.mp h).field f).resolve_left hne
  cases hw with
  | decode | hexdec | newfs | ldf | setf => simp
  | lumset hcls | setl hcls | setb b hcls | setp hcls => simp [hcls]

theorem firstNonHex_eq_none {octets : List Byte} : firstNonHex octets = none ↔ ∀ c ∈ octets, hexval c ≠ none := by
  simp [firstNonHex, List.findIdx?_eq_none_iff, Option.isSome_iff_ne_none]

/-- Only the commands R109 excepts write FS[8]: no other writer of fields takes its class, reserved (R26, R73). -/
theorem mayChangeRsvd_of_write {s : State} {v : RegVal} {i : Instr} (h : FieldWrite s .RSVD v i) :
    MayChangeRsvd i s := by
  cases h with
  | decode hlen => exact hlen
  | hexdec hlen hok => exact ⟨hlen, firstNonHex_eq_none.mp hok⟩
  | newfs => trivial
  | ldf | setf => rfl
  | lumset hcls | setl hcls | setb b hcls | setp hcls => simp [Field.cls] at hcls

theorem exec_keeps_rsvd {i : Instr} {s t : State} (hi : ¬ MayChangeRsvd i s) (h : exec i s = .next t) :
    t.field .RSVD = s.field .RSVD :=
  ((exec_iff_effect.mp h).field .RSVD).resolve_right fun hw => hi (mayChangeRsvd_of_write hw)

theorem mayChangeRsvd_withHost (i : Instr) (s : State) (rest : List HostInput) :
    MayChangeRsvd i { s with host := rest } ↔ MayChangeRsvd i s := by cases i <;> rfl

/-- Settles O27: of the ways a step can go, only the reset event and a command of `MayChangeRsvd` write FS[8]. -/
theorem reservedBitKeptByStep : Obligations.ReservedBitKeptByStep := by
  intro s t hkeep h
  obtain ⟨-, rfl⟩ | ⟨e, rest, hhost, hgo⟩ := step_cases h
  · rfl
  obtain ⟨hreset, hcmd⟩ := hkeep e rest hhost
  obtain ⟨w, i, he, hdec, hexec⟩ | ⟨w, err, -, -, rfl⟩ | ⟨_, -, -, rfl⟩ | ⟨_, -, rfl⟩ | ⟨_, -, rfl⟩ | ⟨_, -, rfl⟩ |
    ⟨_, _, -, -, rfl⟩ | ⟨he, -⟩ := hgo
  · have hi : ¬ MayChangeRsvd i { s with host := rest } :=
      mt (mayChangeRsvd_withHost i s rest).mp (hcmd w i he hdec)
    exact (exec_keeps_rsvd hi hexec :)
  iterate 6 rfl
  · exact absurd he hreset

/-- What `raise` leaves in STATUS for an error that names a field (R32, R205). -/
theorem raise_fieldOverflow (s : State) (f : Field) :
    s.raise .fieldOverflow (fieldDetail f) = { s with status := errorStatus 3 f.index.val } := by
  cases f <;> rfl

theorem statusWord_ok : statusWord 0#3 0#5 {} = 0#16 := by decide

theorem encode_of_overflow {s : State} {f : Field} (hover : ¬ Fits f (s.field f)) :
    ∃ t, exec .encode s = .next t ∧ statusErr t.status = 3 := by
  cases hfirst : firstOverflow s.fs with
  | none => exact absurd (firstOverflow_eq_none.mp hfirst f) hover
  | some g => exact ⟨_, exec_of_raises (.encodeOverflow hfirst), by simp [ErrorKind.code]⟩

/-- Settles O34 (R24). -/
theorem onlyLdfStoresOverflowingValues : Obligations.OnlyLdfStoresOverflowingValues := by
  refine ⟨fun f v s => ⟨_, exec_of_effect (.ldf f v), by simp⟩, fun i s t hi h g => ?_, fun f s hover => ?_⟩
  · refine ((exec_iff_effect.mp h).field g).imp_right fun hw => ?_
    cases hw with
    | newfs hv => simp [hv]
    | ldf => exact absurd rfl (hi _ _)
    | decode _ hfit | hexdec _ _ hfit | setf hfit | lumset _ hfit | setl _ hfit | setb _ _ hfit | setp _ hfit =>
      exact hfit
  · have hover : ¬ Fits f (s.field f) := Nat.not_lt.mpr hover
    refine ⟨encode_of_overflow hover, fun i hi hwf => ?_, ⟨_, exec_of_effect (.rdf f), statusWord_ok⟩,
      fun imm hfit => ⟨_, exec_of_effect (.setf hfit), statusWord_ok⟩⟩
    rw [exec_of_readOverflow hi hwf hover, raise_fieldOverflow]

/-! ### STATUS after a command (R32, R33) -/

theorem statusOk_complete (fl : Flags) : StatusOk (statusWord 0 0 fl) where
  reserved := by simp
  err := by simp
  noField := by simp
  hexField := by simp
  overflowField := by simp
  noFlags := by simp

/-- An error's STATUS is legal where its detail is in range: 0, a character position or a field index (R205). -/
theorem statusOk_raise {e : ErrorKind} {d : BitVec 5}
    (h : d = 0 ∨ (e = .invalidHexCharacter ∧ d.toNat ≤ 13) ∨ (e = .fieldOverflow ∧ d.toNat ≤ 17)) :
    StatusOk (statusWord e.code d {}) where
  reserved := by simp
  err := by simpa using e.code_ne.2
  noField := by
    obtain rfl | ⟨rfl, -⟩ | ⟨rfl, -⟩ := h <;> simp [ErrorKind.code]
  hexField := by
    obtain rfl | ⟨-, hd⟩ | ⟨rfl, -⟩ := h
    · simp
    · simp [hd]
    · simp [ErrorKind.code]
  overflowField := by
    obtain rfl | ⟨rfl, -⟩ | ⟨-, hd⟩ := h
    · simp
    · simp [ErrorKind.code]
    · simp [hd]
  noFlags := by simp

theorem firstNonHex_lt {octets : List Byte} {n : Nat} (h : firstNonHex octets = some n) : n < octets.length :=
  (List.findIdx?_eq_some_iff_getElem.mp h).1

theorem Raises.statusOk {s : State} {i : Instr} {e : ErrorKind} {d : BitVec 5} (h : Raises s i e d) :
    StatusOk (statusWord e.code d {}) := by
  refine statusOk_raise ?_
  cases h with
  | illFormed | decodeLength | hexdecLength | unknownLabel | unknownPreset => exact .inl rfl
  | @hexdecCharacter n hlen hbad =>
    have hn := firstNonHex_lt hbad
    refine .inr (.inl ⟨rfl, ?_⟩)
    rw [BitVec.toNat_ofNat]
    omega
  | encodeOverflow | setfOverflow | readOverflow =>
    refine .inr (.inr ⟨rfl, ?_⟩)
    rw [fieldDetail_toNat]
    omega

theorem Effect.statusOk {s t : State} {i : Instr} (h : Effect s i t) : StatusOk t.status := by
  cases h with
  | raised hr => exact hr.statusOk
  | _ => exact statusOk_complete _

/-- An error leaves no flag, and a completed command only its own (R33). -/
theorem Effect.flags {s t : State} {i : Instr} (h : Effect s i t) :
    (statusApprox t.status = true → ∃ f, i = .lumset f) ∧ (statusUnrec t.status = true → ∃ f, i = .getl f) ∧
    (statusEnd t.status = true → ∃ f k, i = .enuml f k) ∧ (statusUnver t.status = true → i = .setp) := by
  cases h <;> simp

/-- Settles O57: a rejected word raises, an accepted one ends as its command's effect says (R32). -/
theorem everyCommandLeavesLegalStatus : Obligations.EveryCommandLeavesLegalStatus := by
  refine ⟨rfl, fun w s t h => ?_⟩
  cases hdec : decodeCmd w with
  | error err =>
    rw [performWord_of_error hdec] at h
    cases h
    exact ⟨statusOk_raise (.inl rfl), by simp⟩
  | ok i =>
    rw [performWord_of_ok hdec] at h
    have heff := exec_iff_effect.mp h
    simpa [heff.statusOk] using heff.flags

/-! ### What a command writes into an output register (R27 to R31) -/

@[simp] theorem ErrorKind.code_ne_zero (e : ErrorKind) : ¬ e.code = 0#3 := e.code_ne.1

/-- STATUS 0x0000 means success without flags, so it is no error's (R32). -/
@[simp] theorem statusWord_error_ne_zero (e : ErrorKind) (d : BitVec 5) : ¬ statusWord e.code d {} = 0#16 := fun h =>
  e.code_ne_zero (statusErr_statusWord e.code d {} ▸ congrArg statusErr h)

theorem Effect.recOut {s t : State} {i : Instr} (h : Effect s i t) :
    t.recOut = s.recOut ∨ WritesRecOut i t ∧ t.recOut = .holds (pack s.fs) := by
  cases h with
  | encode => exact .inr ⟨⟨rfl, by simp⟩, rfl⟩
  | _ => exact .inl rfl

theorem Effect.result {s t : State} {i : Instr} (h : Effect s i t) :
    t.result = s.result ∨ WritesResult i t ∧ ∃ v, t.result = .holds v := by
  cases h with
  | rdf f => exact .inr ⟨.inl ⟨.inl ⟨f, rfl⟩, by simp⟩, _, rfl⟩
  | @getb f => exact .inr ⟨.inl ⟨.inr ⟨f, rfl⟩, by simp⟩, _, rfl⟩
  | @enuml f k => exact .inr ⟨.inr ⟨⟨f, k, rfl⟩, statusWord_ok⟩, _, rfl⟩
  | _ => exact .inl rfl

theorem Effect.nitsOut {s t : State} {i : Instr} (h : Effect s i t) :
    t.nitsOut = s.nitsOut ∨ WritesNitsOut i t ∧ ∃ f T k, lumTable f = some T ∧ t.nitsOut = .holds (T k) := by
  cases h with
  | @lumget f T hT => exact .inr ⟨⟨⟨f, rfl⟩, by simp⟩, f, T, _, hT, rfl⟩
  | _ => exact .inl rfl

/-- A label result that comes from some label table, or UNRECOGNIZED (R30). -/
def LabelResult.InTables (r : LabelResult) : Prop :=
  ∀ l, r = .label l → ∃ f lt c, labelTable f = some lt ∧ (⟨l, c⟩ : LabelEntry) ∈ lt

theorem codeToLabel_inTables {f : Field} {lt : LabelTable} (hlt : labelTable f = some lt) (c : RegVal) :
    (codeToLabel lt c).InTables :=
  fun _ hl => ⟨f, lt, c, hlt, mem_of_codeToLabel hl⟩

theorem entry_inTables {f : Field} {lt : LabelTable} {k : Nat} {e : LabelEntry} (hlt : labelTable f = some lt)
    (he : lt[k]? = some e) : (LabelResult.label e.label).InTables := by
  rintro l ⟨rfl⟩
  exact ⟨f, lt, e.code, hlt, List.mem_of_getElem? he⟩

theorem Effect.labelOut {s t : State} {i : Instr} (h : Effect s i t) :
    t.labelOut = s.labelOut ∨ WritesLabelOut i t ∧ ∃ r : LabelResult, r.InTables ∧ t.labelOut = .holds r := by
  cases h with
  | @getl f lt hlt => exact .inr ⟨.inl ⟨⟨f, rfl⟩, by simp⟩, _, codeToLabel_inTables hlt _, rfl⟩
  | @enuml f k lt e hlt he => exact .inr ⟨.inr ⟨⟨f, k, rfl⟩, statusWord_ok⟩, _, entry_inTables hlt he, rfl⟩
  | _ => exact .inl rfl

theorem Effect.ports {s t : State} {i : Instr} (h : Effect s i t) :
    t.din = s.din ∧ t.lblIn = s.lblIn ∧ t.nitsIn = s.nitsIn ∧ t.pnameIn = s.pnameIn ∧ t.host = s.host := by
  cases h <;> exact ⟨rfl, rfl, rfl, rfl, rfl⟩

/-- Settles O54 (R35). -/
theorem commandsLeavePorts : Obligations.CommandsLeavePorts :=
  fun _ _ _ h => (exec_iff_effect.mp h).ports

/-- Settles O52 (R27 to R30, R110). -/
theorem writersOfOutputRegisters : Obligations.WritersOfOutputRegisters := by
  intro i s t h
  have heff := exec_iff_effect.mp h
  refine ⟨fun hne => ?_, fun hne => ?_, fun hne => ?_, fun hne => ?_⟩
  · exact (heff.recOut.resolve_left hne).1.1
  · obtain ⟨⟨hrdf | hgetb, -⟩ | ⟨henuml, -⟩, -⟩ := heff.result.resolve_left hne
    · exact .inl hrdf
    · exact .inr (.inr hgetb)
    · exact .inr (.inl henuml)
  · exact (heff.nitsOut.resolve_left hne).1.1
  · obtain ⟨⟨hgetl, -⟩ | ⟨henuml, -⟩, -⟩ := heff.labelOut.resolve_left hne
    · exact .inl hgetl
    · exact .inr henuml

/-! ### The invariant of a run -/

/-- Settles O60 (R40, R35). -/
theorem invariantAtReset : Obligations.InvariantAtReset where
  status := statusOk_complete {}
  outputs := ⟨nofun, nofun⟩
  din := by decide

theorem Effect.outputsOk {s t : State} {i : Instr} (h : Effect s i t) (hs : OutputsOk s) : OutputsOk t where
  nits x hx := by
    obtain hkeep | ⟨-, f, T, k, hT, hnits⟩ := h.nitsOut
    · exact hs.nits x (hkeep ▸ hx)
    · rw [hnits] at hx
      cases hx
      exact ⟨f, T, k, hT, rfl⟩
  label l hl := by
    obtain hkeep | ⟨-, r, hr, hlabel⟩ := h.labelOut
    · exact hs.label l (hkeep ▸ hl)
    · rw [hlabel] at hl
      cases hl
      exact hr l rfl

theorem Effect.keeps_inv {s t : State} {i : Instr} (h : Effect s i t) (hs : Inv s) : Inv t where
  status := h.statusOk
  outputs := h.outputsOk hs.outputs
  din := h.ports.1 ▸ hs.din

/-- Settles O59: a command keeps the invariant by its effect; nothing else a step does writes an output register but
the reset event, which empties it. -/
theorem invariantKeptByStep : Obligations.InvariantKeptByStep := by
  intro s t hs h
  obtain ⟨-, rfl⟩ | ⟨e, rest, -, hgo⟩ := step_cases h
  · exact hs
  have hs' : Inv { s with host := rest } := ⟨hs.status, ⟨hs.outputs.nits, hs.outputs.label⟩, hs.din⟩
  obtain ⟨w, i, -, -, hexec⟩ | ⟨w, err, -, -, rfl⟩ | ⟨octets, -, hlen, rfl⟩ | ⟨_, -, rfl⟩ | ⟨_, -, rfl⟩ | ⟨_, -, rfl⟩ |
    ⟨_, _, -, -, rfl⟩ | ⟨-, rfl⟩ := hgo
  · exact (exec_iff_effect.mp hexec).keeps_inv hs'
  · exact ⟨statusOk_raise (.inl rfl), ⟨hs.outputs.nits, hs.outputs.label⟩, hs.din⟩
  · exact ⟨hs.status, ⟨hs.outputs.nits, hs.outputs.label⟩, hlen⟩
  · exact ⟨hs.status, ⟨hs.outputs.nits, hs.outputs.label⟩, hs.din⟩
  · exact ⟨hs.status, ⟨hs.outputs.nits, hs.outputs.label⟩, hs.din⟩
  · exact ⟨hs.status, ⟨hs.outputs.nits, hs.outputs.label⟩, hs.din⟩
  · exact hs'
  · exact ⟨invariantAtReset.status, ⟨nofun, nofun⟩, hs.din⟩

/-! ### Steps without a command -/

/-- Settles O11: the script's next input is a port's new value (R35), or there is none. -/
theorem stepTakesHostInputs : Obligations.StepTakesHostInputs := by
  intro s rest
  refine ⟨step_of_nil, fun octets h => ⟨fun hle => ?_, fun hgt => ?_⟩, fun l h => step_of_cons h,
    fun x h => step_of_cons h, fun n h => step_of_cons h⟩
  · have hle : octets.length ≤ Config.dinMax := hle
    simp [step_of_cons h, performInput, drivePort, hle]
  · have hgt : ¬ octets.length ≤ Config.dinMax := Nat.not_le.mpr hgt
    simp [step_of_cons h, performInput, drivePort, hgt]

theorem step_of_reset {s : State} {rest : List HostInput} (h : s.host = .reset :: rest) :
    step s = .next (State.resetEvent { s with host := rest }) := step_of_cons h

/-- Settles O12 (R40, R230). -/
theorem resetValues : Obligations.ResetValues :=
  ⟨State.field_reset, rfl, rfl, rfl, rfl, rfl,
    fun _ _ h => ⟨_, step_of_reset h, State.field_resetEvent _, rfl, rfl, rfl, rfl, rfl⟩⟩

/-- Settles O13 (R35, R235). -/
theorem resetLeavesPorts : Obligations.ResetLeavesPorts :=
  fun _ _ h => ⟨_, step_of_reset h, rfl, rfl, rfl, rfl, rfl⟩

/-! ### Valid bits (R31) -/

/-- A port that shows an output register faults exactly while the register holds no value (log 7). -/
theorem readPort_of_outReg {α : Type} {p : ReadPort} {s : State} {r : OutReg α} {f : α → Observation}
    (h : observe p s = r.observe f) :
    readPort p s = if r.valid then .next s else .fault (.readOfNoValue p) := by
  cases r <;> simp [readPort, h, OutReg.valid]

theorem OutReg.valid_of_holds {α : Type} {r : OutReg α} (h : ∃ v, r = .holds v) : r.valid = true := by
  obtain ⟨v, rfl⟩ := h
  rfl

theorem OutReg.valid_of_kept {α : Type} {r r' : OutReg α} (h : r' = r ∨ ∃ v, r' = .holds v) (hr : r.valid = true) :
    r'.valid = true :=
  h.elim (fun e => e ▸ hr) valid_of_holds

/-- A valid bit that goes from 0 to 1 is a write. -/
theorem OutReg.write_of_valid {α : Type} {r r' : OutReg α} {W : Prop} (h : r' = r ∨ W) (hr : r.valid = false)
    (hr' : r'.valid = true) : W :=
  h.resolve_left fun e => by simp [e, hr] at hr'

/-- What a step can do to the output registers: run a command, empty them all by the reset event, or nothing. -/
theorem step_outputs {s t : State} (h : step s = .next t) :
    (∃ w i u, s.host.head? = some (.command w) ∧ decodeCmd w = .ok i ∧ u.recOut = s.recOut ∧ u.result = s.result ∧
      u.nitsOut = s.nitsOut ∧ u.labelOut = s.labelOut ∧ Effect u i t) ∨
    (s.host.head? = some .reset ∧ t.recOut = .noValue ∧ t.result = .noValue ∧ t.nitsOut = .noValue ∧
      t.labelOut = .noValue) ∨
    (t.recOut = s.recOut ∧ t.result = s.result ∧ t.nitsOut = s.nitsOut ∧ t.labelOut = s.labelOut) := by
  obtain ⟨-, rfl⟩ | ⟨e, rest, hhost, hgo⟩ := step_cases h
  · exact .inr (.inr ⟨rfl, rfl, rfl, rfl⟩)
  obtain ⟨w, i, rfl, hdec, hexec⟩ | ⟨w, err, -, -, rfl⟩ | ⟨_, -, -, rfl⟩ | ⟨_, -, rfl⟩ | ⟨_, -, rfl⟩ | ⟨_, -, rfl⟩ |
    ⟨_, _, -, -, rfl⟩ | ⟨rfl, rfl⟩ := hgo
  · have heff : Effect { s with host := rest } i t := exec_iff_effect.mp hexec
    exact .inl ⟨w, i, { s with host := rest }, by rw [hhost, List.head?_cons], hdec, rfl, rfl, rfl, rfl, heff⟩
  iterate 6 exact .inr (.inr ⟨rfl, rfl, rfl, rfl⟩)
  · exact .inr (.inl ⟨by rw [hhost, List.head?_cons], rfl, rfl, rfl, rfl⟩)

theorem step_keeps_valid {s t : State} (h : step s = .next t) (hreset : s.host.head? ≠ some .reset) :
    (s.recOut.valid = true → t.recOut.valid = true) ∧ (s.result.valid = true → t.result.valid = true) ∧
    (s.nitsOut.valid = true → t.nitsOut.valid = true) ∧ (s.labelOut.valid = true → t.labelOut.valid = true) := by
  obtain ⟨w, i, u, -, -, hrec, hres, hnits, hlabel, heff⟩ | ⟨hhead, -⟩ | ⟨hrec, hres, hnits, hlabel⟩ := step_outputs h
  · rw [← hrec, ← hres, ← hnits, ← hlabel]
    exact ⟨OutReg.valid_of_kept (heff.recOut.imp_right fun hw => ⟨_, hw.2⟩),
      OutReg.valid_of_kept (heff.result.imp_right And.right),
      OutReg.valid_of_kept (heff.nitsOut.imp_right fun ⟨_, _, _, _, _, hv⟩ => ⟨_, hv⟩),
      OutReg.valid_of_kept (heff.labelOut.imp_right fun ⟨_, _, _, hv⟩ => ⟨_, hv⟩)⟩
  · exact absurd hhead hreset
  · rw [hrec, hres, hnits, hlabel]
    exact ⟨id, id, id, id⟩

theorem step_sets_valid {s t : State} (h : step s = .next t) :
    (s.recOut.valid = false → t.recOut.valid = true →
      ∃ w, s.host.head? = some (.command w) ∧ decodeCmd w = .ok .encode) ∧
    (s.result.valid = false → t.result.valid = true → ∃ w f, s.host.head? = some (.command w) ∧
      (decodeCmd w = .ok (.rdf f) ∨ (∃ k, decodeCmd w = .ok (.enuml f k)) ∨ decodeCmd w = .ok (.getb f))) ∧
    (s.nitsOut.valid = false → t.nitsOut.valid = true →
      ∃ w f, s.host.head? = some (.command w) ∧ decodeCmd w = .ok (.lumget f)) ∧
    (s.labelOut.valid = false → t.labelOut.valid = true → ∃ w f, s.host.head? = some (.command w) ∧
      (decodeCmd w = .ok (.getl f) ∨ ∃ k, decodeCmd w = .ok (.enuml f k))) := by
  obtain ⟨w, i, u, hhead, hdec, hrec, hres, hnits, hlabel, heff⟩ | ⟨-, hrec, hres, hnits, hlabel⟩ |
    ⟨hrec, hres, hnits, hlabel⟩ := step_outputs h
  · rw [← hrec, ← hres, ← hnits, ← hlabel]
    refine ⟨fun h0 h1 => ?_, fun h0 h1 => ?_, fun h0 h1 => ?_, fun h0 h1 => ?_⟩
    · obtain ⟨⟨rfl, -⟩, -⟩ := OutReg.write_of_valid heff.recOut h0 h1
      exact ⟨w, hhead, hdec⟩
    · obtain ⟨⟨⟨f, rfl⟩ | ⟨f, rfl⟩, -⟩ | ⟨⟨f, k, rfl⟩, -⟩, -⟩ := OutReg.write_of_valid heff.result h0 h1
      · exact ⟨w, f, hhead, .inl hdec⟩
      · exact ⟨w, f, hhead, .inr (.inr hdec)⟩
      · exact ⟨w, f, hhead, .inr (.inl ⟨k, hdec⟩)⟩
    · obtain ⟨⟨⟨f, rfl⟩, -⟩, -⟩ := OutReg.write_of_valid heff.nitsOut h0 h1
      exact ⟨w, f, hhead, hdec⟩
    · obtain ⟨⟨⟨f, rfl⟩, -⟩ | ⟨⟨f, k, rfl⟩, -⟩, -⟩ := OutReg.write_of_valid heff.labelOut h0 h1
      · exact ⟨w, f, hhead, .inl hdec⟩
      · exact ⟨w, f, hhead, .inr ⟨k, hdec⟩⟩
  · simp [hrec, hres, hnits, hlabel, OutReg.valid]
  · simp +contextual [hrec, hres, hnits, hlabel]

theorem Effect.outputs_of_error {s t : State} {i : Instr} (h : Effect s i t) (herr : statusErr t.status ≠ 0) :
    t.recOut = s.recOut ∧ t.result = s.result ∧ t.nitsOut = s.nitsOut ∧ t.labelOut = s.labelOut := by
  cases h with
  | raised => exact ⟨rfl, rfl, rfl, rfl⟩
  | _ => exact absurd (statusErr_statusWord ..) herr

/-- Settles O14 (R31): the reset clause by the values of R40, the others by what a step does to the output registers,
what a read answers, and what an error leaves. -/
theorem validBitsAndHostReads : Obligations.ValidBitsAndHostReads := by
  refine ⟨⟨rfl, rfl, rfl, rfl⟩, fun s t h => step_keeps_valid h, fun s t h => step_sets_valid h,
    fun s rest p h => ?_, fun w s t h herr => ?_⟩
  · rw [step_of_cons h, performInput]
    cases p with
    | value r => cases r <;> exact readPort_of_outReg rfl
    | recBytes | hexOut => exact readPort_of_outReg rfl
    | valid r => cases r <;> rfl
    | status => rfl
  · cases hdec : decodeCmd w with
    | error err =>
      rw [performWord_of_error hdec] at h
      cases h
      exact ⟨rfl, rfl, rfl, rfl⟩
    | ok i =>
      rw [performWord_of_ok hdec] at h
      exact (exec_iff_effect.mp h).outputs_of_error herr

/-! ### STATUS and the output registers are not read (R51, R57) -/

/-- The state with other contents of the four output registers. -/
def State.withOutputs (s : State) (r : OutReg Record) (v : OutReg RegVal) (x : OutReg Nits) (l : OutReg LabelResult) :
    State := { s with recOut := r, result := v, nitsOut := x, labelOut := l }

@[simp] theorem State.withOutputs_recOut (s : State) r v x l : (s.withOutputs r v x l).recOut = r := rfl
@[simp] theorem State.withOutputs_result (s : State) r v x l : (s.withOutputs r v x l).result = v := rfl
@[simp] theorem State.withOutputs_nitsOut (s : State) r v x l : (s.withOutputs r v x l).nitsOut = x := rfl
@[simp] theorem State.withOutputs_labelOut (s : State) r v x l : (s.withOutputs r v x l).labelOut = l := rfl
@[simp] theorem State.withOutputs_fs (s : State) r v x l : (s.withOutputs r v x l).fs = s.fs := rfl
@[simp] theorem State.field_withOutputs (s : State) r v x l (f : Field) : (s.withOutputs r v x l).field f = s.field f :=
  rfl

@[simp] theorem writesRecOut_iff {i : Instr} {t : State} :
    WritesRecOut i t ↔ i = .encode ∧ statusErr t.status = 0 := Iff.rfl

@[simp] theorem writesResult_iff {i : Instr} {t : State} :
    WritesResult i t ↔ (((∃ f, i = .rdf f) ∨ ∃ f, i = .getb f) ∧ statusErr t.status = 0) ∨
      ((∃ f k, i = .enuml f k) ∧ t.status = 0#16) := Iff.rfl

@[simp] theorem writesNitsOut_iff {i : Instr} {t : State} :
    WritesNitsOut i t ↔ (∃ f, i = .lumget f) ∧ statusErr t.status = 0 := Iff.rfl

@[simp] theorem writesLabelOut_iff {i : Instr} {t : State} :
    WritesLabelOut i t ↔ ((∃ f, i = .getl f) ∧ statusErr t.status = 0) ∨
      ((∃ f k, i = .enuml f k) ∧ t.status = 0#16) := Iff.rfl

/-- Of an output register that two runs take from a to b and from a' to b': where the command writes it, both runs leave
the same in it, and otherwise each leaves what it had. -/
def WrittenAlike {α : Type} (writes : Prop) (a b a' b' : OutReg α) : Prop :=
  (writes → b' = b) ∧ (¬ writes → b = a ∧ b' = a')

@[simp] theorem writtenAlike_same {α : Type} {writes : Prop} {a b a' : OutReg α} :
    WrittenAlike writes a b a' b ↔ (¬ writes → b = a ∧ b = a') := by
  simp [WrittenAlike]

@[simp] theorem writtenAlike_kept {α : Type} {writes : Prop} {a a' : OutReg α} :
    WrittenAlike writes a a a' a' ↔ (writes → a' = a) := by
  simp [WrittenAlike]

/-- Two runs of command i side by side, from s to t and from s' to t': what they leave in the output registers. -/
structure OutputsAlike (i : Instr) (s t s' t' : State) : Prop where
  recOut : WrittenAlike (WritesRecOut i t) s.recOut t.recOut s'.recOut t'.recOut
  result : WrittenAlike (WritesResult i t) s.result t.result s'.result t'.result
  nitsOut : WrittenAlike (WritesNitsOut i t) s.nitsOut t.nitsOut s'.nitsOut t'.nitsOut
  labelOut : WrittenAlike (WritesLabelOut i t) s.labelOut t.labelOut s'.labelOut t'.labelOut

section
variable {s t : State} {i : Instr} {e : ErrorKind} {d : BitVec 5}
  (r : OutReg Record) (v : OutReg RegVal) (x : OutReg Nits) (l : OutReg LabelResult)

/-- No error looks at an output register. -/
theorem Raises.withOutputs (h : Raises s i e d) : Raises (s.withOutputs r v x l) i e d := by
  cases h with
  | illFormed hwf => exact .illFormed hwf
  | decodeLength hlen => exact .decodeLength hlen
  | hexdecLength hlen => exact .hexdecLength hlen
  | hexdecCharacter hlen hbad => exact .hexdecCharacter hlen hbad
  | encodeOverflow hover => exact .encodeOverflow hover
  | setfOverflow hover => exact .setfOverflow hover
  | readOverflow hi hwf hover => exact .readOverflow hi hwf hover
  | unknownLabel hlt hno => exact .unknownLabel hlt hno
  | unknownPreset hno => exact .unknownPreset hno

/-- STATUS of an ENUML past the end (R170): success, but not 0x0000. -/
theorem statusWord_end_ne_zero : ¬ statusWord 0#3 0#5 { atEnd := true } = 0#16 := by decide

theorem Effect.withOutputs (h : Effect s i t) :
    ∃ u, Effect (s.withOutputs r v x l) i u ∧ u.fs = t.fs ∧ u.status = t.status ∧
      OutputsAlike i s t (s.withOutputs r v x l) u := by
  cases h with
  | raised hr => exact ⟨_, .raised (hr.withOutputs r v x l), rfl, rfl, by constructor <;> simp⟩
  | nop => exact ⟨_, .nop, rfl, rfl, by constructor <;> simp⟩
  | decode hlen => exact ⟨_, .decode hlen, rfl, rfl, by constructor <;> simp⟩
  | hexdec hlen hok => exact ⟨_, .hexdec hlen hok, rfl, rfl, by constructor <;> simp⟩
  | encode hfit => exact ⟨_, .encode hfit, rfl, rfl, by constructor <;> simp⟩
  | newfs => exact ⟨_, .newfs, rfl, rfl, by constructor <;> simp⟩
  | ldf f c => exact ⟨_, .ldf f c, rfl, rfl, by constructor <;> simp⟩
  | setf hfit => exact ⟨_, .setf hfit, rfl, rfl, by constructor <;> simp⟩
  | rdf f => exact ⟨_, .rdf f, rfl, rfl, by constructor <;> simp⟩
  | lumset hT => exact ⟨_, .lumset hT, rfl, rfl, by constructor <;> simp⟩
  | lumget hT hfit => exact ⟨_, .lumget (s := s.withOutputs r v x l) hT hfit, rfl, rfl, by constructor <;> simp⟩
  | setl hlt hc => exact ⟨_, .setl hlt hc, rfl, rfl, by constructor <;> simp⟩
  | getl hlt hfit => exact ⟨_, .getl hlt hfit, rfl, rfl, by constructor <;> simp⟩
  | enuml hlt he => exact ⟨_, .enuml hlt he, rfl, rfl, by constructor <;> simp [statusWord_ok]⟩
  | enumlEnd hlt he => exact ⟨_, .enumlEnd hlt he, rfl, rfl, by constructor <;> simp [statusWord_end_ne_zero]⟩
  | setb b hb => exact ⟨_, .setb b hb, rfl, rfl, by constructor <;> simp⟩
  | getb hb hfit => exact ⟨_, .getb hb hfit, rfl, rfl, by constructor <;> simp⟩
  | setp hp => exact ⟨_, .setp hp, rfl, rfl, by constructor <;> simp [State.applyPreset]⟩

end

/-- Every arm rewrites STATUS whole, and none reads it (R33). -/
theorem exec_withStatus (i : Instr) (s : State) (st : BitVec 16) : exec i { s with status := st } = exec i s := by
  cases i <;> rfl

/-- Settles O55: STATUS is rewritten whole, and the two runs go by the same effect. -/
theorem commandsIgnoreStatusAndOutputs : Obligations.CommandsIgnoreStatusAndOutputs := by
  refine ⟨exec_withStatus, fun i s t r v x l h => ?_⟩
  obtain ⟨u, heff, hfs, hstatus, alike⟩ := (exec_iff_effect.mp h).withOutputs r v x l
  exact ⟨u, exec_of_effect heff, hfs, hstatus, alike.recOut.1, alike.recOut.2, alike.result.1,
    alike.result.2, alike.nitsOut.1, alike.nitsOut.2, alike.labelOut.1, alike.labelOut.2⟩

/-! ### The reserved bit in the record (R25) -/

/-- One term of `pack` has bits only where its field lies. -/
theorem packField_getLsbD (v : RegVal) (f : Field) {k : Nat} (hk : k < 56) :
    (packField v f).getLsbD k = (decide (f.lo ≤ k ∧ k < f.lo + f.width) && v.getLsbD (k - f.lo)) := by
  by_cases hlo : f.lo ≤ k
  · have hw : (k < f.lo + f.width) = (k - f.lo < f.width) := by simp only [eq_iff_iff]; omega
    simp [packField, hk, hlo, hw]
  · simp [packField, Nat.lt_of_not_le hlo, hlo]

theorem foldl_or_getLsbD {α : Type} (g : α → Record) (l : List α) (r : Record) (k : Nat) :
    (l.foldl (fun r a => r ||| g a) r).getLsbD k = (r.getLsbD k || l.any fun a => (g a).getLsbD k) := by
  induction l generalizing r with
  | nil => simp
  | cons a l ih => simp [ih, Bool.or_assoc]

/-- Each bit of the packed record is the bit of the field that covers it: no other field reaches there (R22, R106). -/
theorem pack_getLsbD {fs : FieldSet} {f : Field} {k : Nat} (hlo : f.lo ≤ k) (hhi : k < f.lo + f.width) :
    (pack fs).getLsbD k = (fs.get f.index).getLsbD (k - f.lo) := by
  have hk : k < 56 := by have := f.lo_add_width_le; omega
  have h0 : (0 : Record).getLsbD k = false := BitVec.getLsbD_zero
  rw [pack, foldl_or_getLsbD (fun f => packField (fs.get f.index) f), h0, Bool.false_or, Bool.eq_iff_iff]
  simp only [List.any_eq_true, packField_getLsbD _ _ hk, Bool.and_eq_true, decide_eq_true_eq]
  constructor
  · rintro ⟨g, -, ⟨hglo, hghi⟩, hbit⟩
    have hg : g = f := by
      by_contra hne
      have := Field.disjoint hne
      omega
    exact hg ▸ hbit
  · exact fun hbit => ⟨f, f.mem_all, ⟨hlo, hhi⟩, hbit⟩

/-- The one bit of RSVD is bit 34 of the record (R21). -/
theorem unpack_rsvd (r : Record) : unpack r .RSVD = (BitVec.ofBool (r.getLsbD 34)).setWidth 16 := by
  have hbit : r.extractLsb' 34 1 = BitVec.ofBool (r.getLsbD 34) := by
    ext i hi
    obtain rfl : i = 0 := by omega
    simp
  rw [← hbit]
  rfl

theorem pack_rsvd {s : State} (hfit : Fits .RSVD (s.field .RSVD)) :
    s.field .RSVD = (BitVec.ofBool ((pack s.fs).getLsbD 34)).setWidth 16 := by
  rw [pack_getLsbD (f := .RSVD) (by decide) (by decide)]
  change s.field .RSVD = (BitVec.ofBool ((s.field .RSVD).getLsbD 0)).setWidth 16
  have hfit : (s.field .RSVD).toNat < 2 := hfit
  generalize s.field .RSVD = v at *
  obtain h | h : v = 0 ∨ v = 1 := by bv_omega
  · subst h; decide
  · subst h; decide

/-! ### The value of the reserved bit makes no difference (R25) -/

theorem setField_comm (s : State) {f g : Field} (a b : RegVal) (h : f ≠ g) :
    (s.setField f a).setField g b = (s.setField g b).setField f a := by
  have hi : f.index.val ≠ g.index.val := fun e => h (Field.index_injective (Fin.ext e))
  simp only [State.setField, Vector.set_comm _ _ hi]

theorem setField_setField (s : State) (f : Field) (a b : RegVal) :
    (s.setField f a).setField f b = s.setField f b := by
  simp [State.setField]

theorem applyPreset_setField (s : State) (p : Preset) {f : Field} (v : RegVal) (hf : f.cls ≠ .chroma) :
    (s.setField f v).applyPreset p = (s.applyPreset p).setField f v := by
  have hne : ∀ g : Field, g.cls = .chroma → f ≠ g := fun g hg e => hf (e ▸ hg)
  simp only [State.applyPreset, setField_comm _ v _ (hne .GXH rfl), setField_comm _ v _ (hne .GY rfl),
    setField_comm _ v _ (hne .RX rfl), setField_comm _ v _ (hne .BX rfl), setField_comm _ v _ (hne .RY rfl),
    setField_comm _ v _ (hne .BY rfl)]

/-- The fields that LUMGET, GETL or GETB of a class it takes reads do not include RSVD (R73). -/
theorem ne_rsvd_of_read {i : Instr} {f : Field} (hi : i ∈ [Instr.lumget f, .getl f, .getb f]) (hwf : i.wf = true) :
    f ≠ .RSVD := by
  rintro rfl
  simp only [List.mem_cons, List.not_mem_nil, or_false] at hi
  obtain rfl | rfl | rfl := hi <;> simp [lumTable, labelTable, Field.cls] at hwf

theorem field_setRsvd (s : State) (v : RegVal) {f : Field} (hf : f.cls ≠ .reserved) :
    (s.setField .RSVD v).field f = s.field f :=
  State.field_setField_ne s v fun e => hf (e ▸ rfl)

theorem Raises.setRsvd {s : State} {i : Instr} {e : ErrorKind} {d : BitVec 5} (v : RegVal) (hi : i ≠ .encode)
    (h : Raises s i e d) : Raises (s.setField .RSVD v) i e d := by
  cases h with
  | encodeOverflow => exact absurd rfl hi
  | illFormed hwf => exact .illFormed hwf
  | decodeLength hlen => exact .decodeLength hlen
  | hexdecLength hlen => exact .hexdecLength hlen
  | hexdecCharacter hlen hbad => exact .hexdecCharacter hlen hbad
  | setfOverflow hover => exact .setfOverflow hover
  | readOverflow hi hwf hover =>
    exact .readOverflow hi hwf (by rwa [State.field_setField_ne s v (ne_rsvd_of_read hi hwf)])
  | unknownLabel hlt hno => exact .unknownLabel hlt hno
  | unknownPreset hno => exact .unknownPreset hno

/-- A write of field f overwrites a changed RSVD where f is RSVD, and otherwise leaves the change in place. -/
theorem effect_setField_rsvd {s : State} {i : Instr} {f : Field} {a v : RegVal} {fl : Flags}
    (h : Effect (s.setField .RSVD v) i (((s.setField .RSVD v).setField f a).complete fl)) :
    Effect (s.setField .RSVD v) i ((s.setField f a).complete fl) ∨
      Effect (s.setField .RSVD v) i (((s.setField f a).complete fl).setField .RSVD v) := by
  by_cases hf : f = .RSVD
  · subst hf
    exact .inl (setField_setField s .RSVD v a ▸ h)
  · rw [setField_comm _ _ _ (Ne.symm hf)] at h
    exact .inr h

/-- A command but ENCODE and RDF RSVD does the same whatever RSVD holds: it overwrites RSVD, or leaves it. -/
theorem Effect.setRsvd {s t : State} {i : Instr} (v : RegVal) (hencode : i ≠ .encode) (hrdf : i ≠ .rdf .RSVD)
    (h : Effect s i t) :
    Effect (s.setField .RSVD v) i t ∨ Effect (s.setField .RSVD v) i (t.setField .RSVD v) := by
  cases h with
  | raised hr => exact .inr (.raised (hr.setRsvd v hencode))
  | nop => exact .inr .nop
  | decode hlen => exact .inl (.decode (s := s.setField .RSVD v) hlen)
  | hexdec hlen hok => exact .inl (.hexdec (s := s.setField .RSVD v) hlen hok)
  | encode => exact absurd rfl hencode
  | newfs => exact .inl (.newfs (s := s.setField .RSVD v))
  | ldf f a => exact effect_setField_rsvd (.ldf f a)
  | setf hfit => exact effect_setField_rsvd (.setf hfit)
  | rdf f =>
    have hread := Effect.rdf (s := s.setField .RSVD v) f
    rw [State.field_setField_ne s v fun e : f = .RSVD => hrdf (e ▸ rfl)] at hread
    exact .inr hread
  | lumset hT => exact effect_setField_rsvd (.lumset hT)
  | @lumget f T hT hfit =>
    have same := field_setRsvd s v (f := f) (by simp [cls_of_lumTable hT])
    have hread := Effect.lumget (s := s.setField .RSVD v) hT (same ▸ hfit)
    simp only [same] at hread
    exact .inr hread
  | setl hlt hc => exact effect_setField_rsvd (.setl hlt hc)
  | @getl f lt hlt hfit =>
    have same := field_setRsvd s v (f := f) (by rcases cls_of_labelTable hlt with h | h <;> simp [h])
    have hread := Effect.getl (s := s.setField .RSVD v) hlt (same ▸ hfit)
    rw [same] at hread
    exact .inr hread
  | enuml hlt he => exact .inr (.enuml hlt he)
  | enumlEnd hlt he => exact .inr (.enumlEnd hlt he)
  | setb b hb => exact effect_setField_rsvd (.setb b hb)
  | @getb f hb hfit =>
    have same := field_setRsvd s v (f := f) (by simp [hb])
    have hread := Effect.getb (s := s.setField .RSVD v) hb (same ▸ hfit)
    rw [same] at hread
    exact .inr hread
  | @setp p hp =>
    have hset := Effect.setp (s := s.setField .RSVD v) hp
    rw [applyPreset_setField s p v (by decide)] at hset
    exact .inr hset

/-- Settles O25. -/
theorem reservedBitPassesThrough : Obligations.ReservedBitPassesThrough := by
  refine ⟨fun s t hlen h => ?_, fun s t hlen h hst => ?_, fun s t r h herr hrec => ?_, fun s t h => ?_,
    fun s v => ⟨_, exec_of_effect (.ldf .RSVD v), by simp⟩,
    fun s v hfit => ⟨_, exec_of_effect (.setf hfit), by simp⟩, fun i s t hi h => exec_keeps_rsvd hi h,
    fun i s t v hencode hrdf h => ?_⟩
  · rw [← (Effect.decode hlen).eq_of_exec h, State.field_complete, State.field_setAllFields, unpack_rsvd]
  · cases exec_iff_effect.mp h with
    | raised hr => simp at hst
    | hexdec => simpa using unpack_rsvd _
  · cases exec_iff_effect.mp h with
    | raised hr => simp at herr
    | encode hfit =>
      cases hrec
      exact pack_rsvd (firstOverflow_eq_none.mp hfit .RSVD)
  · rw [← Effect.newfs.eq_of_exec h]
    rfl
  · exact ((exec_iff_effect.mp h).setRsvd v hencode hrdf).imp exec_of_effect exec_of_effect

end Sys2Proof.Machine
end

section
/-! PROOFS. The statement of 20_memory.md: a command issued again changes nothing (R58). -/

namespace Sys2Proof.Machine

/-- Completing rewrites STATUS whole (R33). -/
theorem complete_complete (s : State) (fl fl' : Flags) : (s.complete fl).complete fl' = s.complete fl' := rfl

/-- Writing what a field register holds changes nothing. -/
theorem setField_of_field_eq {s : State} {f : Field} {v : RegVal} (h : s.field f = v) : s.setField f v = s := by
  simp [State.setField, ← h, State.field, Vector.get_eq_getElem]

theorem applyPreset_of_fields_eq {s : State} {p : Preset} (hGXH : s.field .GXH = p.GXH) (hGY : s.field .GY = p.GY)
    (hRX : s.field .RX = p.RX) (hBX : s.field .BX = p.BX) (hRY : s.field .RY = p.RY) (hBY : s.field .BY = p.BY) :
    s.applyPreset p = s := by
  rw [State.applyPreset, setField_of_field_eq hGXH, setField_of_field_eq hGY, setField_of_field_eq hRX,
    setField_of_field_eq hBX, setField_of_field_eq hRY, setField_of_field_eq hBY]

/-- SETP's six writes are of six different fields, so all six are held at its end. -/
theorem applyPreset_again (s : State) (p : Preset) (fl : Flags) :
    ((s.applyPreset p).complete fl).applyPreset p = (s.applyPreset p).complete fl := by
  apply applyPreset_of_fields_eq <;> simp [State.applyPreset]

/-- A command that wrote v into field f and writes it there again leaves the state of the first write. -/
theorem effect_setField_again {s : State} {i : Instr} {f : Field} {v : RegVal} {fl : Flags}
    (h : Effect ((s.setField f v).complete fl) i ((((s.setField f v).complete fl).setField f v).complete fl)) :
    Effect ((s.setField f v).complete fl) i ((s.setField f v).complete fl) := by
  have hheld : ((s.setField f v).complete fl).field f = v := by simp
  rwa [setField_of_field_eq hheld, complete_complete] at h

/-- A command does the same again in the state it leaves: no command reads a register that it writes (R58), the ports
stay (R35), and an error changes STATUS alone, which no command reads (R51). -/
theorem Effect.again {s t : State} {i : Instr} (h : Effect s i t) : Effect t i t := by
  cases h with
  | raised hr => exact exec_iff_effect.mp ((exec_withStatus i s _).trans (exec_of_raises hr))
  | nop => exact .nop
  | decode hlen => exact .decode (s := (s.setAllFields _).complete {}) hlen
  | hexdec hlen hok => exact .hexdec (s := (s.setAllFields _).complete {}) hlen hok
  | encode hfit => exact .encode (s := State.complete { s with recOut := .holds (pack s.fs) } {}) hfit
  | newfs => exact .newfs (s := (s.setAllFields _).complete {})
  | ldf f v => exact effect_setField_again (.ldf f v)
  | setf hfit => exact effect_setField_again (.setf hfit)
  | rdf f => exact .rdf (s := State.complete { s with result := .holds (s.field f) } {}) f
  | lumset hT => exact effect_setField_again (.lumset hT)
  | @lumget f T hT hfit =>
    exact .lumget (s := State.complete { s with nitsOut := .holds (T ⟨(s.field f).toNat, hfit⟩) } {}) hT hfit
  | setl hlt hc => exact effect_setField_again (.setl hlt hc)
  | getl hlt hfit => exact .getl (s := State.complete { s with labelOut := _ } _) hlt hfit
  | enuml hlt he => exact .enuml hlt he
  | enumlEnd hlt he => exact .enumlEnd hlt he
  | setb b hb => exact effect_setField_again (.setb b hb)
  | getb hb hfit => exact .getb (s := State.complete { s with result := _ } {}) hb hfit
  | @setp p hp =>
    have hset := Effect.setp (s := (s.applyPreset p).complete { unver := p.placeholder }) hp
    rwa [applyPreset_again, complete_complete] at hset

/-- Settles O56. -/
theorem commandsAreIdempotent : Obligations.CommandsAreIdempotent :=
  fun _ _ _ h => exec_of_effect (exec_iff_effect.mp h).again

end Sys2Proof.Machine
end

section
/-! PROOFS. The statements of 30_encoding.md. First a command word by its four slices (R71), what a row of the opcode
map accepts (R74), and that each row and the encoder agree; from these the decoder reads back exactly the encoder's
words, and rejects exactly the words of R77. Then the assembler: what a field operand and an immediate resolve to, and
that a presented word is always the word of a well-formed instruction. -/

namespace Sys2Proof

/-! ### A command word by its slices (R70, R71) -/

@[simp] theorem wordOp_commandWord (op : BitVec 8) (f : BitVec 5) (imm : BitVec 16) :
    wordOp (commandWord op f imm) = op := by
  rw [wordOp, commandWord, BitVec.extractLsb'_append_eq_of_le (by omega), BitVec.extractLsb'_append_eq_of_le (by omega)]
  exact BitVec.extractLsb'_append_eq_left

@[simp] theorem wordZ_commandWord (op : BitVec 8) (f : BitVec 5) (imm : BitVec 16) :
    wordZ (commandWord op f imm) = 0 :=
  Laws.EncodedZ.commandWord_z op f imm

@[simp] theorem wordF_commandWord (op : BitVec 8) (f : BitVec 5) (imm : BitVec 16) :
    wordF (commandWord op f imm) = f := by
  rw [wordF, commandWord, BitVec.extractLsb'_append_eq_of_le (by omega)]
  exact BitVec.extractLsb'_append_eq_right

@[simp] theorem wordImm_commandWord (op : BitVec 8) (f : BitVec 5) (imm : BitVec 16) :
    wordImm (commandWord op f imm) = imm :=
  BitVec.extractLsb'_append_eq_right

/-- The four slices of R71 are the whole word. -/
theorem word_eq_slices (w : Word) : w = wordOp w ++ wordZ w ++ wordF w ++ wordImm w := by
  have hz : wordOp w ++ wordZ w = w.extractLsb' 21 11 := BitVec.extractLsb'_append_extractLsb'_eq_extractLsb' rfl
  have hf : w.extractLsb' 21 11 ++ wordF w = w.extractLsb' 16 16 :=
    BitVec.extractLsb'_append_extractLsb'_eq_extractLsb' rfl
  have himm : w.extractLsb' 16 16 ++ wordImm w = w.extractLsb' 0 32 :=
    BitVec.extractLsb'_append_extractLsb'_eq_extractLsb' rfl
  rw [hz, hf, himm, BitVec.extractLsb'_eq_self]

theorem word_eq_iff {w w' : Word} :
    w = w' ↔ wordOp w = wordOp w' ∧ wordZ w = wordZ w' ∧ wordF w = wordF w' ∧ wordImm w = wordImm w' := by
  refine ⟨fun h => h ▸ ⟨rfl, rfl, rfl, rfl⟩, fun ⟨hop, hz, hf, himm⟩ => ?_⟩
  rw [word_eq_slices w, hop, hz, hf, himm, ← word_eq_slices w']

/-- A word with zero z bits is the one R70 puts together from its other slices. -/
theorem commandWord_of_slices {w : Word} (hz : wordZ w = 0) : commandWord (wordOp w) (wordF w) (wordImm w) = w := by
  simp [word_eq_iff (w' := w), hz]

/-! ### What a row accepts (R74) -/

/-- Every row fixes the opcode and the z bits, and asks for zeros elsewhere. -/
theorem opcodeMap_slices : ∀ r ∈ opcodeMap, wordOp r.mask = 0xFF ∧ wordZ r.mask = 7 ∧
    wordZ r.pattern = 0 ∧ wordF r.pattern = 0 ∧ wordImm r.pattern = 0 := by decide

theorem accepts_iff {r : OpcodeRow} (hr : r ∈ opcodeMap) (w : Word) :
    r.accepts w = true ↔ wordOp w = wordOp r.pattern ∧ wordZ w = 0 ∧
      wordF w &&& wordF r.mask = 0 ∧ wordImm w &&& wordImm r.mask = 0 := by
  obtain ⟨hmop, hmz, hpz, hpf, hpimm⟩ := opcodeMap_slices r hr
  have hop : wordOp (w &&& r.mask) = wordOp w := by
    rw [wordOp, BitVec.extractLsb'_and, ← wordOp, ← wordOp, hmop]; exact BitVec.and_allOnes
  have hz : wordZ (w &&& r.mask) = wordZ w := by
    rw [wordZ, BitVec.extractLsb'_and, ← wordZ, ← wordZ, hmz]; exact BitVec.and_allOnes
  have hf : wordF (w &&& r.mask) = wordF w &&& wordF r.mask := BitVec.extractLsb'_and
  have himm : wordImm (w &&& r.mask) = wordImm w &&& wordImm r.mask := BitVec.extractLsb'_and
  rw [OpcodeRow.accepts, beq_iff_eq, word_eq_iff, hop, hz, hf, himm, hpz, hpf, hpimm]

/-- Column "op" of R74. -/
theorem opcodeMap_ops : opcodeMap.map (fun r => wordOp r.pattern) =
    [0x00, 0x01, 0x02, 0x03, 0x08, 0x09, 0x0A, 0x0B, 0x10, 0x11, 0x18, 0x19, 0x1A, 0x1B, 0x1C, 0x20] := rfl

/-- The rows have different opcodes. -/
theorem opcodeMap_ops_nodup : (opcodeMap.map fun r => wordOp r.pattern).Nodup := by decide

theorem row_eq_of_op {r r' : OpcodeRow} (hr : r ∈ opcodeMap) (hr' : r' ∈ opcodeMap)
    (h : wordOp r.pattern = wordOp r'.pattern) : r = r' :=
  List.inj_on_of_nodup_map opcodeMap_ops_nodup hr hr' h

/-- Settles O4: every row fixes the opcode, and the rows' opcodes differ. -/
theorem opcodeRowsDisjoint : Obligations.OpcodeRowsDisjoint := by
  intro w i j hi hj
  obtain ⟨hopi, -⟩ := (accepts_iff (List.get_mem ..) w).mp hi
  obtain ⟨hopj, -⟩ := (accepts_iff (List.get_mem ..) w).mp hj
  refine Fin.ext ((List.Nodup.getElem_inj_iff opcodeMap_ops_nodup
    (hi := by simp) (hj := by simp)).mp ?_)
  simpa using hopi.symm.trans hopj

/-! ### Fields by their index (R70, R73) -/

theorem Field.ofIndex?_eq_some_iff {n : Nat} {f : Field} : Field.ofIndex? n = some f ↔ n = f.index.val :=
  ⟨Field.ofIndex?_eq_some, fun h => h ▸ Field.ofIndex?_index f⟩

theorem Field.code_toNat (f : Field) : f.code.toNat = f.index.val := Machine.fieldDetail_toNat f

/-! ### The decoder by the row that accepts (R76) -/

/-- What an accepting row makes of the word. -/
def RowShape.read (w : Word) : RowShape → Except IllegalWord Instr
  | .plain i => .ok i
  | .withField admits build =>
    match Field.ofIndex? (wordF w).toNat with
    | none => .error .fieldReserved
    | some f => if admits.contains f.cls then .ok (build f (wordImm w)) else .error .classNotAdmitted

theorem find?_accepts_eq_some {r : OpcodeRow} {w : Word} (hr : r ∈ opcodeMap) (ha : r.accepts w = true) :
    opcodeMap.find? (fun r => r.accepts w) = some r := by
  obtain ⟨r', hfind⟩ := Option.isSome_iff_exists.mp (List.find?_isSome (p := fun r => r.accepts w) |>.mpr ⟨r, hr, ha⟩)
  have hr' := List.mem_of_find?_eq_some hfind
  obtain ⟨hop, -⟩ := (accepts_iff hr w).mp ha
  obtain ⟨hop', -⟩ := (accepts_iff hr' w).mp (List.find?_some (p := fun r : OpcodeRow => r.accepts w) hfind)
  rwa [row_eq_of_op hr hr' (hop.symm.trans hop')]

theorem decodeCmd_of_accepts {r : OpcodeRow} {w : Word} (hr : r ∈ opcodeMap) (ha : r.accepts w = true) :
    decodeCmd w = r.shape.read w := by
  simp only [decodeCmd, find?_accepts_eq_some hr ha]
  cases r.shape <;> rfl

theorem decodeCmd_of_no_row {w : Word} (h : ∀ r ∈ opcodeMap, ¬ r.accepts w = true) : decodeCmd w = .error .noRow := by
  rw [decodeCmd, List.find?_eq_none.mpr h]

/-- A command comes from a row that accepts its word. -/
theorem exists_row_of_decodeCmd {w : Word} {i : Instr} (h : decodeCmd w = .ok i) :
    ∃ r ∈ opcodeMap, r.accepts w = true ∧ r.shape.read w = .ok i := by
  by_cases hrow : ∃ r ∈ opcodeMap, r.accepts w = true
  · obtain ⟨r, hr, ha⟩ := hrow
    exact ⟨r, hr, ha, decodeCmd_of_accepts hr ha ▸ h⟩
  · rw [decodeCmd_of_no_row (by simpa using hrow)] at h
    cases h

/-- A row with a field reads the field and the immediate off the word. -/
theorem read_withField_eq_ok {admits : List FieldClass} {build : Field → RegVal → Instr} {w : Word} {i : Instr} :
    (RowShape.withField admits build).read w = .ok i ↔
      ∃ f, wordF w = f.code ∧ admits.contains f.cls = true ∧ i = build f (wordImm w) := by
  have names (f : Field) : Field.ofIndex? (wordF w).toNat = some f ↔ wordF w = f.code := by
    rw [Field.ofIndex?_eq_some_iff, ← Field.code_toNat, BitVec.toNat_inj]
  simp only [RowShape.read, ← names]
  cases hf : Field.ofIndex? (wordF w).toNat with
  | none => simp
  | some f => by_cases hcls : f.cls ∈ admits <;> simp [hcls, eq_comm]

/-! ### The rows and the encoder agree (R74, R80) -/

/-- SETB's mask leaves the lowest bit of the immediate. -/
theorem and_FFFE_eq_zero {imm : BitVec 16} : imm &&& 0xFFFE = 0 ↔ imm.toNat < 2 := by
  have hsplit : imm.extractLsb' 1 15 ++ imm.extractLsb' 0 1 = imm :=
    (BitVec.extractLsb'_append_extractLsb'_eq_extractLsb' rfl).trans BitVec.extractLsb'_eq_self
  have hmask : imm &&& 0xFFFE = imm.extractLsb' 1 15 ++ 0#1 := by
    calc imm &&& 0xFFFE
      _ = (imm.extractLsb' 1 15 ++ imm.extractLsb' 0 1) &&& (BitVec.allOnes 15 ++ 0#1) := by rw [hsplit]; rfl
      _ = imm.extractLsb' 1 15 ++ 0#1 := by rw [BitVec.and_append, BitVec.and_allOnes, BitVec.and_zero]
  rw [hmask, show (0 : BitVec 16) = 0#15 ++ 0#1 from rfl, BitVec.append_left_inj, ← BitVec.toNat_inj]
  simp [Nat.shiftRight_eq_div_pow]
  omega

theorem setb_imm {imm : BitVec 16} (h : imm &&& 0xFFFE = 0) : (BitVec.ofBool (imm.getLsbD 0)).setWidth 16 = imm := by
  have hlt : imm.toNat < 2 := and_FFFE_eq_zero.mp h
  obtain h0 | h1 : imm = 0 ∨ imm = 1 := by
    simp only [← BitVec.toNat_inj]
    exact Nat.le_one_iff_eq_zero_or_eq_one.mp (Nat.le_of_lt_succ hlt)
  · rw [h0]; rfl
  · rw [h1]; rfl

/-- The instructions of a row with this opcode and these masks have the words the row accepts. -/
def RowShape.Encodes (op : BitVec 8) (fMask : BitVec 5) (immMask : BitVec 16) : RowShape → Prop
  | .plain i => fMask = BitVec.allOnes 5 ∧ immMask = BitVec.allOnes 16 ∧ encode i = commandWord op 0 0 ∧ i.wf = true
  | .withField admits build => fMask = 0 ∧ ∀ f imm, imm &&& immMask = 0 →
      encode (build f imm) = commandWord op f.code imm ∧ (build f imm).wf = admits.contains f.cls

theorem opcodeMap_encodes : ∀ r ∈ opcodeMap, r.shape.Encodes (wordOp r.pattern) (wordF r.mask) (wordImm r.mask) := by
  have noImm : ∀ {imm : BitVec 16} (op f), imm &&& 0xFFFF = 0 → commandWord op f 0 = commandWord op f imm := by
    intro imm op f h
    rw [← h, show imm &&& 0xFFFF = imm from BitVec.and_allOnes]
  have setbImm : ∀ {imm : BitVec 16} (op f), imm &&& 0xFFFE = 0 →
      commandWord op f ((BitVec.ofBool (imm.getLsbD 0)).setWidth 16) = commandWord op f imm :=
    fun op f h => congrArg (commandWord op f) (setb_imm h)
  simp only [opcodeMap, List.forall_mem_cons]
  refine ⟨⟨rfl, rfl, rfl, rfl⟩, ⟨rfl, rfl, rfl, rfl⟩, ⟨rfl, rfl, rfl, rfl⟩, ⟨rfl, rfl, rfl, rfl⟩, ⟨rfl, rfl, rfl, rfl⟩,
    ⟨rfl, fun _ _ _ => ⟨rfl, rfl⟩⟩, ⟨rfl, fun _ _ _ => ⟨rfl, rfl⟩⟩, ⟨rfl, fun _ _ h => ⟨noImm _ _ h, rfl⟩⟩,
    ⟨rfl, fun _ _ h => ⟨noImm _ _ h, rfl⟩⟩, ⟨rfl, fun _ _ h => ⟨noImm _ _ h, rfl⟩⟩,
    ⟨rfl, fun _ _ h => ⟨noImm _ _ h, rfl⟩⟩, ⟨rfl, fun _ _ h => ⟨noImm _ _ h, rfl⟩⟩, ⟨rfl, fun _ _ _ => ⟨rfl, rfl⟩⟩,
    ⟨rfl, fun _ _ h => ⟨setbImm _ _ h, rfl⟩⟩, ⟨rfl, fun _ _ h => ⟨noImm _ _ h, rfl⟩⟩, ⟨rfl, rfl, rfl, rfl⟩, by simp⟩

/-- A row reads the word of each of its well-formed instructions. -/
theorem decodeCmd_encode_of_row {r : OpcodeRow} {admits : List FieldClass} {build : Field → RegVal → Instr} {i : Instr}
    (hr : r ∈ opcodeMap) (hshape : r.shape = .withField admits build) (f : Field) (imm : RegVal) (hi : i = build f imm)
    (himm : imm &&& wordImm r.mask = 0) (hwf : i.wf = true) : decodeCmd (encode i) = .ok i := by
  have henc := opcodeMap_encodes r hr
  rw [hshape] at henc
  obtain ⟨hfMask, hbuild⟩ := henc
  obtain ⟨hword, hcls⟩ := hbuild f imm himm
  rw [hi, hcls] at hwf
  rw [hi, hword, decodeCmd_of_accepts hr ((accepts_iff hr _).mpr (by simp [hfMask, himm])), hshape, read_withField_eq_ok]
  exact ⟨f, wordF_commandWord .., hwf, by rw [wordImm_commandWord]⟩

/-- Settles O2: R74's row with the opcode of the instruction reads its word. -/
theorem decodeReadsBackEncode : Obligations.DecodeReadsBackEncode := by
  intro i hwf
  have unmasked {v mask : RegVal} (h : mask = 0) : v &&& mask = 0 := by rw [h]; exact BitVec.and_zero
  cases i with
  | nop | decode | hexdec | encode | newfs | setp => rfl
  | ldf f v => exact decodeCmd_encode_of_row (r := opcodeMap[5]) (List.getElem_mem _) rfl f v rfl (unmasked rfl) hwf
  | setf f v => exact decodeCmd_encode_of_row (r := opcodeMap[6]) (List.getElem_mem _) rfl f v rfl (unmasked rfl) hwf
  | rdf f => exact decodeCmd_encode_of_row (r := opcodeMap[7]) (List.getElem_mem _) rfl f 0 rfl BitVec.zero_and hwf
  | lumset f => exact decodeCmd_encode_of_row (r := opcodeMap[8]) (List.getElem_mem _) rfl f 0 rfl BitVec.zero_and hwf
  | lumget f => exact decodeCmd_encode_of_row (r := opcodeMap[9]) (List.getElem_mem _) rfl f 0 rfl BitVec.zero_and hwf
  | setl f => exact decodeCmd_encode_of_row (r := opcodeMap[10]) (List.getElem_mem _) rfl f 0 rfl BitVec.zero_and hwf
  | getl f => exact decodeCmd_encode_of_row (r := opcodeMap[11]) (List.getElem_mem _) rfl f 0 rfl BitVec.zero_and hwf
  | enuml f k => exact decodeCmd_encode_of_row (r := opcodeMap[12]) (List.getElem_mem _) rfl f k rfl (unmasked rfl) hwf
  | setb f b =>
    have hb : b = ((BitVec.ofBool b).setWidth 16).getLsbD 0 := by cases b <;> rfl
    exact decodeCmd_encode_of_row (r := opcodeMap[13]) (List.getElem_mem _) rfl f _ (congrArg _ hb)
      (by cases b <;> rfl) hwf
  | getb f => exact decodeCmd_encode_of_row (r := opcodeMap[14]) (List.getElem_mem _) rfl f 0 rfl BitVec.zero_and hwf

/-- Settles O3: the accepting row fixes every bit of the word that the instruction does not carry. -/
theorem decodedWordIsTheEncoding : Obligations.DecodedWordIsTheEncoding := by
  intro w i h
  obtain ⟨r, hr, ha, hread⟩ := exists_row_of_decodeCmd h
  obtain ⟨hop, hz, hf, himm⟩ := (accepts_iff hr w).mp ha
  have henc := opcodeMap_encodes r hr
  cases hshape : r.shape with
  | plain j =>
    rw [hshape] at hread henc
    cases hread
    obtain ⟨hfMask, himmMask, hword, hwf⟩ := henc
    rw [hfMask, BitVec.and_allOnes] at hf
    rw [himmMask, BitVec.and_allOnes] at himm
    refine ⟨?_, hwf⟩
    rw [hword, ← commandWord_of_slices hz, hop, hf, himm]
  | withField admits build =>
    rw [hshape] at hread henc
    obtain ⟨f, hcode, hcls, rfl⟩ := read_withField_eq_ok.mp hread
    obtain ⟨hword, hwf⟩ := henc.2 f _ himm
    refine ⟨?_, hwf.trans hcls⟩
    rw [hword, ← hop, ← hcode, commandWord_of_slices hz]

/-! ### Rejected words (R73, R75, R77) -/

/-- The reserved opcodes are those of no row. -/
theorem opReserved_iff {op : BitVec 8} : Machine.OpReserved op ↔ ∀ r ∈ opcodeMap, op ≠ wordOp r.pattern := by
  have hops : (∀ r ∈ opcodeMap, op ≠ wordOp r.pattern) ↔ op ∉ opcodeMap.map fun r => wordOp r.pattern := by
    simp [eq_comm]
  rw [hops, opcodeMap_ops, Machine.OpReserved]
  simp only [List.mem_cons, List.not_mem_nil, or_false]
  bv_omega

/-- The indices of the fields whose class is admitted (R73). -/
def FieldClass.indices (admits : List FieldClass) : List Nat :=
  (Field.all.filter fun f => admits.contains f.cls).map fun f => f.index.val

@[simp] theorem FieldClass.mem_indices_any {n : Nat} : n ∈ FieldClass.indices FieldClass.any ↔ n ≤ 17 := by
  rw [show FieldClass.indices FieldClass.any = List.range 18 by decide, List.mem_range, Nat.lt_succ_iff]

@[simp] theorem FieldClass.indices_lumOnly : FieldClass.indices FieldClass.lumOnly = [4, 7] := by decide
@[simp] theorem FieldClass.indices_labelled :
    FieldClass.indices FieldClass.labelled = [1, 2, 3, 5, 6, 9, 11, 13] := by decide
@[simp] theorem FieldClass.indices_boolOnly : FieldClass.indices FieldClass.boolOnly = [2, 3, 5, 11, 13] := by decide

theorem mem_indices_iff {admits : List FieldClass} {n : Nat} :
    n ∈ FieldClass.indices admits ↔ ∃ f : Field, n = f.index.val ∧ admits.contains f.cls = true := by
  simp [FieldClass.indices, Field.mem_all, and_comm, eq_comm]

/-- A row with a field rejects the reserved indices and the classes it does not admit. -/
theorem read_withField_error {admits : List FieldClass} {build : Field → RegVal → Instr} {w : Word} :
    (∃ e, (RowShape.withField admits build).read w = .error e) ↔ (wordF w).toNat ∉ FieldClass.indices admits := by
  simp only [RowShape.read, mem_indices_iff, ← Field.ofIndex?_eq_some_iff]
  cases hf : Field.ofIndex? (wordF w).toNat with
  | none => simp
  | some f => by_cases hcls : f.cls ∈ admits <;> simp [hcls]

/-- The masks of the rows are the columns "uses f" and "uses imm" of R74. -/
theorem opcodeMap_masks : ∀ r ∈ opcodeMap,
    (wordF r.mask = if Machine.OpUsesF (wordOp r.pattern) then 0 else BitVec.allOnes 5) ∧
    wordImm r.mask = if Machine.OpUsesImm (wordOp r.pattern) then 0 else
      if wordOp r.pattern = 0x1B then 0xFFFE else BitVec.allOnes 16 := by decide

/-- With the opcode of a row, the required-zero bits of R75 are those of the row's mask. -/
theorem requiredZeroBroken_iff {r : OpcodeRow} (hr : r ∈ opcodeMap) {w : Word} (hop : wordOp w = wordOp r.pattern) :
    Machine.RequiredZeroBroken w ↔ ¬ r.accepts w = true := by
  obtain ⟨hf, himm⟩ := opcodeMap_masks r hr
  have hbit : ¬ (wordImm w &&& 0xFFFE = 0) ↔ 2 ≤ (wordImm w).toNat := by rw [and_FFFE_eq_zero, Nat.not_lt]
  have hF : ¬ wordF w &&& wordF r.mask = 0 ↔ ¬ Machine.OpUsesF (wordOp w) ∧ wordF w ≠ 0 := by
    rw [hf, ← hop]
    split_ifs with h <;> simp [h, -BitVec.reduceAllOnes]
  have hImm : ¬ wordImm w &&& wordImm r.mask = 0 ↔
      (¬ Machine.OpUsesImm (wordOp w) ∧ wordOp w ≠ 0x1B ∧ wordImm w ≠ 0) ∨
        (wordOp w = 0x1B ∧ 2 ≤ (wordImm w).toNat) := by
    rw [himm, ← hop]
    split_ifs with h h1B
    · have hne : wordOp w ≠ 0x1B := fun h1B => absurd h (by rw [h1B]; decide)
      have hzero : wordImm w &&& 0 = 0 := BitVec.and_zero
      simp only [hzero, h, hne, not_true_eq_false, false_and, or_self]
    · simp only [hbit, h1B, ne_eq, not_true_eq_false, false_and, and_false, true_and, false_or]
    · simp only [BitVec.and_allOnes, h, h1B, ne_eq, not_false_eq_true, true_and, false_and, or_false]
  rw [accepts_iff hr, Machine.RequiredZeroBroken, ← hImm, ← hF]
  simp only [hop, true_and, not_and_or, ne_eq]

/-- With the opcode of a row, the inadmissible fields are those the row does not read. -/
theorem fieldInadmissible_iff {r : OpcodeRow} (hr : r ∈ opcodeMap) {w : Word} (hop : wordOp w = wordOp r.pattern) :
    Machine.FieldInadmissible w ↔ ∃ e, r.shape.read w = .error e := by
  rw [Machine.FieldInadmissible, hop]
  revert r
  simp only [opcodeMap, List.forall_mem_cons, read_withField_error]
  simp [wordOp, RowShape.read]
/-- An opcode that is not reserved is the opcode of a row, which alone decides about its words. -/
theorem decodeCmd_error_iff {w : Word} : (∃ e, decodeCmd w = .error e) ↔
    Machine.OpReserved (wordOp w) ∨ Machine.RequiredZeroBroken w ∨ Machine.FieldInadmissible w := by
  by_cases hres : Machine.OpReserved (wordOp w)
  · have hnone : ∀ r ∈ opcodeMap, ¬ r.accepts w = true := fun r hr ha =>
      opReserved_iff.mp hres r hr ((accepts_iff hr w).mp ha).1
    simp [hres, decodeCmd_of_no_row hnone]
  · obtain ⟨r, hr, hop⟩ : ∃ r ∈ opcodeMap, wordOp w = wordOp r.pattern := by
      simpa [opReserved_iff] using hres
    rw [requiredZeroBroken_iff hr hop, fieldInadmissible_iff hr hop]
    by_cases ha : r.accepts w = true
    · simp [hres, ha, decodeCmd_of_accepts hr ha]
    · have hnone : ∀ r' ∈ opcodeMap, ¬ r'.accepts w = true := fun r' hr' ha' => by
        obtain ⟨hop', -⟩ := (accepts_iff hr' w).mp ha'
        exact ha (row_eq_of_op hr hr' (hop.symm.trans hop') ▸ ha')
      simp [ha, decodeCmd_of_no_row hnone]

theorem decodeCmd_ne_ok_of_rejected {w : Word}
    (h : Machine.OpReserved (wordOp w) ∨ Machine.RequiredZeroBroken w ∨ Machine.FieldInadmissible w) (i : Instr) :
    decodeCmd w ≠ .ok i := by
  obtain ⟨e, he⟩ := decodeCmd_error_iff.mpr h
  simp [he]

/-- Settles O1: the first sixteen words are those of R80; R73, R75 and R77 reject the others. -/
theorem specWordsDecode : Obligations.SpecWordsDecode := by
  refine ⟨decodeReadsBackEncode .nop rfl, decodeReadsBackEncode .decode rfl, decodeReadsBackEncode .hexdec rfl,
    decodeReadsBackEncode .encode rfl, decodeReadsBackEncode .newfs rfl, decodeReadsBackEncode (.ldf .GXH 128) rfl,
    decodeReadsBackEncode (.setf .BY 7) rfl, decodeReadsBackEncode (.rdf .IFMODE) rfl,
    decodeReadsBackEncode (.lumset .MAXLUM) rfl, decodeReadsBackEncode (.lumget .MINLUM) rfl,
    decodeReadsBackEncode (.setl .DMV) rfl, decodeReadsBackEncode (.getl .DMV) rfl,
    decodeReadsBackEncode (.enuml .BLC 2) rfl, decodeReadsBackEncode (.setb .I10B444 true) rfl,
    decodeReadsBackEncode (.getb .YUV12) rfl, decodeReadsBackEncode .setp rfl, ?_⟩
  have reserved {w : Word} (h : Machine.OpReserved (wordOp w)) := decodeCmd_ne_ok_of_rejected (.inl h)
  have zeroBroken {w : Word} (h : Machine.RequiredZeroBroken w) := decodeCmd_ne_ok_of_rejected (.inr (.inl h))
  have inadmissible {w : Word} (h : Machine.FieldInadmissible w) := decodeCmd_ne_ok_of_rejected (.inr (.inr h))
  simp only [List.forall_mem_cons]
  exact ⟨reserved (by decide), zeroBroken (by decide), zeroBroken (by decide), zeroBroken (by decide),
    zeroBroken (by decide), inadmissible (by decide), inadmissible (by decide), inadmissible (by decide),
    zeroBroken (by decide), by simp⟩

end Sys2Proof

namespace Sys2Proof.Machine

/-- STATUS of IllegalCommand(0) is ERR = 6 alone (R77, 60_exceptions.md R201). -/
theorem raise_illegalCommand (s : State) : s.raise .illegalCommand 0 = { s with status := 0x0006 } := rfl

/-- Settles O5: R76 raises IllegalCommand(0) for a word without a command. -/
theorem rejectedWordsRaiseIllegalCommand : Obligations.RejectedWordsRaiseIllegalCommand := by
  refine ⟨fun w => decodeCmd_error_iff, fun w s h => ?_⟩
  obtain ⟨e, he⟩ := decodeCmd_error_iff.mpr h
  rw [performWord_of_error he, raise_illegalCommand]

/-- Settles O6: each arm checks the class of its field. -/
theorem illFormedInstructionsRaiseIllegalCommand : Obligations.IllFormedInstructionsRaiseIllegalCommand := by
  intro i s hwf
  rw [exec_of_illFormed hwf, raise_illegalCommand]

/-! ### Field operands, immediates and characters of a line (R79, R80) -/

/-- The operand of a line writes this field: by its mnemonic or by its index (R79). -/
def FieldRef.Names (r : FieldRef) (f : Field) : Prop := r = .mnemonic f ∨ r = .index f.index.val

theorem FieldRef.resolve_eq_ok {r : FieldRef} {admits : List FieldClass} {f : Field} :
    r.resolve admits = .ok f ↔ r.Names f ∧ admits.contains f.cls = true := by
  cases r with
  | mnemonic g =>
    by_cases hg : g = f
    · subst hg; simp [FieldRef.resolve, FieldRef.Names]
    · simp [FieldRef.resolve, FieldRef.Names, hg, ite_eq_iff]
  | index n =>
    simp only [FieldRef.resolve, FieldRef.Names, FieldRef.index.injEq, reduceCtorEq, false_or,
      ← Field.ofIndex?_eq_some_iff]
    cases Field.ofIndex? n with
    | none => simp
    | some g =>
      by_cases hg : g = f
      · subst hg; simp
      · simp [hg, ite_eq_iff]

theorem FieldRef.names_index_iff {n : Nat} {f : Field} : (FieldRef.index n).Names f ↔ n = f.index.val := by
  simp [FieldRef.Names]

theorem ImmText.resolve_eq_ok {imm : ImmText} {v : RegVal} :
    imm.resolve = .ok v ↔ imm.value < 65536 ∧ v = BitVec.ofNat 16 imm.value := by
  by_cases h : imm.value < 65536 <;> simp [ImmText.resolve, h, eq_comm]

theorem ImmText.resolveBit_eq_ok {b : ImmText} {v : Bool} :
    b.resolveBit = .ok v ↔ b.value < 2 ∧ v = decide (b.value = 1) := by
  unfold ImmText.resolveBit
  split_ifs with h0 h1
  · simp [h0, eq_comm]
  · simp [h1, eq_comm]
  · simp
    omega

theorem asciiOctets_of_ascii {cs : List Char} (h : ∀ c ∈ cs, c.toNat < 128) :
    asciiOctets cs = .ok (cs.map fun c => BitVec.ofNat 8 c.toNat) := by
  induction cs with
  | nil => rfl
  | cons c rest ih =>
    obtain ⟨hc, hrest⟩ := List.forall_mem_cons.mp h
    simp [asciiOctets, hc, ih hrest]

/-! ### What a line assembles to -/

theorem assembleField_eq_ok {r : FieldRef} {admits : List FieldClass} {drives : List PortDrive} {build : Field → Instr}
    {inputs : List HostInput} : assembleField r admits drives build = .ok inputs ↔
      ∃ f, (r.Names f ∧ admits.contains f.cls = true) ∧ inputs = drives.map HostInput.drive ++ present (build f) := by
  simp only [assembleField, ← FieldRef.resolve_eq_ok]
  cases r.resolve admits <;> simp [eq_comm]

theorem assembleFieldImm_eq_ok {r : FieldRef} {admits : List FieldClass} {imm : ImmText}
    {build : Field → RegVal → Instr} {inputs : List HostInput} : assembleFieldImm r admits imm build = .ok inputs ↔
      imm.value < 65536 ∧
        assembleField r admits [] (fun f => build f (BitVec.ofNat 16 imm.value)) = .ok inputs := by
  by_cases h : imm.value < 65536
  · simp [assembleFieldImm, ImmText.resolve_eq_ok.mpr ⟨h, rfl⟩, h]
  · cases hres : imm.resolve with
    | ok v => exact absurd (ImmText.resolve_eq_ok.mp hres).1 h
    | error e => simp [assembleFieldImm, hres, h]

theorem assemble_setb_eq_ok {r : FieldRef} {b : ImmText} {inputs : List HostInput} :
    assemble (.setb r b) = .ok inputs ↔
      b.value < 2 ∧
        assembleField r FieldClass.boolOnly [] (fun f => .setb f (decide (b.value = 1))) = .ok inputs := by
  by_cases h : b.value < 2
  · simp [assemble, ImmText.resolveBit_eq_ok.mpr ⟨h, rfl⟩, h]
  · cases hres : b.resolveBit with
    | ok v => exact absurd (ImmText.resolveBit_eq_ok.mp hres).1 h
    | error e => simp [assemble, hres, h]

theorem assembleChars_eq_ok {chars : String} {is : List Instr} {inputs : List HostInput} :
    assembleChars chars is = .ok inputs ↔
      ∃ bs, asciiOctets chars.toList = .ok bs ∧ inputs = .drive (.din bs) :: is.flatMap present := by
  unfold assembleChars
  cases asciiOctets chars.toList <;> simp [eq_comm]

theorem assembleChars_eq_error {chars : String} {is : List Instr} {e : AsmError} :
    assembleChars chars is = .error e ↔ asciiOctets chars.toList = .error e := by
  unfold assembleChars
  cases asciiOctets chars.toList <;> simp

/-- Settles O8: R81's expansions present the same words in the same order. -/
theorem pseudoLinesAssembleToTheirExpansion : Obligations.PseudoLinesAssembleToTheirExpansion := by
  refine ⟨fun _ => rfl, fun _ => rfl, fun _ => rfl, fun octets first second hfirst hsecond => ?_,
    fun chars first second hfirst hsecond => ?_, fun chars e h => ?_⟩
  · cases hfirst
    cases hsecond
    rfl
  · obtain ⟨bs, hbs, rfl⟩ := assembleChars_eq_ok.mp hfirst
    cases hsecond
    exact assembleChars_eq_ok.mpr ⟨bs, hbs, rfl⟩
  · exact assembleChars_eq_error.mpr (assembleChars_eq_error.mp h)

/-- Settles O9: what assembles has a 16-bit immediate, a bit for SETB and a field of an admitted class. -/
theorem assemblerRefusals : Obligations.AssemblerRefusals := by
  have immediate {r : FieldRef} {admits : List FieldClass} {imm : ImmText} {build : Field → RegVal → Instr}
      {inputs : List HostInput} (himm : 65536 ≤ imm.value) : assembleFieldImm r admits imm build ≠ .ok inputs :=
    fun h => absurd (assembleFieldImm_eq_ok.mp h).1 (Nat.not_lt.mpr himm)
  have field {r : FieldRef} {admits : List FieldClass} {drives : List PortDrive} {build : Field → Instr}
      {inputs : List HostInput} (hno : ∀ f : Field, r.Names f → admits.contains f.cls = false) :
      assembleField r admits drives build ≠ .ok inputs := fun h => by
    obtain ⟨f, ⟨hname, hcls⟩, -⟩ := assembleField_eq_ok.mp h
    rw [hno f hname] at hcls
    cases hcls
  have fieldImm {r : FieldRef} {admits : List FieldClass} {imm : ImmText} {build : Field → RegVal → Instr}
      {inputs : List HostInput} (hno : ∀ f : Field, r.Names f → admits.contains f.cls = false) :
      assembleFieldImm r admits imm build ≠ .ok inputs := fun h => field hno (assembleFieldImm_eq_ok.mp h).2
  refine ⟨fun r imm inputs himm => ⟨immediate himm, immediate himm, immediate himm⟩,
    fun r b inputs hb h => absurd (assemble_setb_eq_ok.mp h).1 (Nat.not_lt.mpr hb), fun n imm inputs hn => ?_,
    fun r x inputs hcls => ?_, fun r l k inputs hcls => ?_, fun r b inputs hcls => ?_⟩
  · have hno (f : Field) (hname : (FieldRef.index n).Names f) : FieldClass.any.contains f.cls = false := by
      have := FieldRef.names_index_iff.mp hname
      omega
    exact ⟨fieldImm hno, fieldImm hno, field hno⟩
  · have hno (f : Field) (hname : r.Names f) : FieldClass.lumOnly.contains f.cls = false := by
      simpa [FieldClass.lumOnly] using hcls f hname
    exact ⟨field hno, field hno⟩
  · have hno (f : Field) (hname : r.Names f) : FieldClass.labelled.contains f.cls = false := by
      simpa [FieldClass.labelled] using hcls f hname
    exact ⟨field hno, field hno, fieldImm hno⟩
  · have hno (f : Field) (hname : r.Names f) : FieldClass.boolOnly.contains f.cls = false := by
      simpa [FieldClass.boolOnly] using hcls f hname
    exact ⟨fun h => field hno (assemble_setb_eq_ok.mp h).2, field hno⟩

/-! ### The words a line presents -/

/-- The command word as the sum R80 writes: the opcode, the field's index and the number at their places. -/
theorem commandWord_eq_or (op : BitVec 8) (f : Field) {n : Nat} (hn : n < 65536) :
    commandWord op f.code (BitVec.ofNat 16 n) =
      op.setWidth 32 <<< 24 ||| BitVec.ofNat 32 f.index.val <<< 16 ||| BitVec.ofNat 32 n := by
  have hf : f.code.setWidth 32 = BitVec.ofNat 32 f.index.val := by rw [← Field.code_toNat, BitVec.ofNat_toNat]
  have himm : (BitVec.ofNat 16 n).setWidth 32 = BitVec.ofNat 32 n := by
    apply BitVec.eq_of_toNat_eq
    simp only [BitVec.toNat_setWidth, BitVec.toNat_ofNat]
    omega
  calc commandWord op f.code (BitVec.ofNat 16 n)
    _ = (op ++ 0#3 ++ f.code ++ BitVec.ofNat 16 n).setWidth 32 := (BitVec.setWidth_eq _).symm
    _ = _ := by rw [BitVec.setWidth_append_append_append_eq_shiftLeft_setWidth_or, hf, himm]; simp

/-- Every word the inputs present is the word of a well-formed instruction. -/
def PresentsWellFormed (inputs : List HostInput) : Prop :=
  ∀ w, HostInput.command w ∈ inputs → ∃ i : Instr, i.wf = true ∧ w = encode i

theorem presentsWellFormed_append {a b : List HostInput} (ha : PresentsWellFormed a) (hb : PresentsWellFormed b) :
    PresentsWellFormed (a ++ b) := fun w hw => (List.mem_append.mp hw).elim (ha w) (hb w)

theorem presentsWellFormed_drives (drives : List PortDrive) : PresentsWellFormed (drives.map HostInput.drive) := by
  intro w hw
  simp at hw

theorem presentsWellFormed_present {i : Instr} (hwf : i.wf = true) : PresentsWellFormed (present i) := by
  intro w hw
  exact ⟨i, hwf, by simpa [present] using hw⟩

theorem presentsWellFormed_assembleField {r : FieldRef} {admits : List FieldClass} {drives : List PortDrive}
    {build : Field → Instr} {inputs : List HostInput} (hwf : ∀ f, (build f).wf = admits.contains f.cls)
    (h : assembleField r admits drives build = .ok inputs) : PresentsWellFormed inputs := by
  obtain ⟨f, ⟨-, hcls⟩, rfl⟩ := assembleField_eq_ok.mp h
  exact presentsWellFormed_append (presentsWellFormed_drives drives)
    (presentsWellFormed_present ((hwf f).trans hcls))

theorem presentsWellFormed_assemble {line : SourceLine} {inputs : List HostInput} (h : assemble line = .ok inputs) :
    PresentsWellFormed inputs := by
  cases line with
  | nop | encode | newfs => cases h; exact presentsWellFormed_present rfl
  | decode octets =>
    cases h
    exact presentsWellFormed_append (presentsWellFormed_drives [.din octets]) (presentsWellFormed_present rfl)
  | setp name =>
    cases h
    exact presentsWellFormed_append (presentsWellFormed_drives [.pnameIn name]) (presentsWellFormed_present rfl)
  | hexdec chars =>
    obtain ⟨bs, -, rfl⟩ := assembleChars_eq_ok.mp h
    exact presentsWellFormed_append (presentsWellFormed_drives [.din bs]) (presentsWellFormed_present rfl)
  | ldf f imm | setf f imm | enuml f imm =>
    exact presentsWellFormed_assembleField (fun _ => rfl) (assembleFieldImm_eq_ok.mp h).2
  | setb f b => exact presentsWellFormed_assembleField (fun _ => rfl) (assemble_setb_eq_ok.mp h).2
  | rdf f | lumset f | lumget f | setl f | getl f | getb f | clr f | setTrue f | setFalse f =>
    exact presentsWellFormed_assembleField (fun _ => rfl) h
  | roundtrip octets =>
    cases h
    exact presentsWellFormed_append (presentsWellFormed_drives [.din octets])
      (presentsWellFormed_append (presentsWellFormed_present rfl) (presentsWellFormed_present rfl))
  | hexrt chars =>
    obtain ⟨bs, -, rfl⟩ := assembleChars_eq_ok.mp h
    exact presentsWellFormed_append (presentsWellFormed_drives [.din bs])
      (presentsWellFormed_append (presentsWellFormed_present rfl) (presentsWellFormed_present rfl))

theorem assembleField_of_names {r : FieldRef} {f : Field} {admits : List FieldClass} (drives : List PortDrive)
    {build : Field → Instr} {w : Word} (hname : r.Names f) (hcls : admits.contains f.cls = true)
    (hw : encode (build f) = w) :
    assembleField r admits drives build = .ok (drives.map HostInput.drive ++ [.command w]) :=
  assembleField_eq_ok.mpr ⟨f, ⟨hname, hcls⟩, by rw [← hw, present]⟩

/-- Settles O7: the field and the immediate resolve, and the word is the sum of its parts (R80). -/
theorem assembledLinesPresentCommands : Obligations.AssembledLinesPresentCommands := by
  refine ⟨rfl, rfl, rfl, fun _ => rfl, fun chars h => assembleChars_eq_ok.mpr ⟨_, asciiOctets_of_ascii h, rfl⟩,
    fun _ => rfl, fun r f w hname hw => ?_, fun line inputs w h hmem => ?_⟩
  · have imm16 (op : BitVec 8) (n : Nat) (hn : n < 65536) :
        commandWord op f.code (BitVec.ofNat 16 n) = op.setWidth 32 <<< 24 ||| w ||| BitVec.ofNat 32 n := by
      rw [hw, commandWord_eq_or op f hn]
    have noImm (op : BitVec 8) : commandWord op f.code 0 = op.setWidth 32 <<< 24 ||| w :=
      (imm16 op 0 (Nat.zero_lt_succ _)).trans BitVec.or_zero
    have hany := any_contains_cls f
    refine ⟨fun imm himm => ⟨?_, ?_⟩, ?_, fun hlum => ?_, fun hlabelled => ?_, fun hbool => ?_⟩
    · exact assembleFieldImm_eq_ok.mpr ⟨himm, assembleField_of_names [] hname hany (imm16 0x09 _ himm)⟩
    · exact assembleFieldImm_eq_ok.mpr ⟨himm, assembleField_of_names [] hname hany (imm16 0x0A _ himm)⟩
    · exact assembleField_of_names [] hname hany (noImm 0x0B)
    · have hcls : FieldClass.lumOnly.contains f.cls = true := by simp [FieldClass.lumOnly, hlum]
      exact ⟨fun x => assembleField_of_names [.nitsIn x] hname hcls (noImm 0x10),
        assembleField_of_names [] hname hcls (noImm 0x11)⟩
    · have hcls : FieldClass.labelled.contains f.cls = true := by simpa [FieldClass.labelled] using hlabelled
      exact ⟨fun l => assembleField_of_names [.lblIn l] hname hcls (noImm 0x18),
        assembleField_of_names [] hname hcls (noImm 0x19), fun k hk =>
          assembleFieldImm_eq_ok.mpr ⟨hk, assembleField_of_names [] hname hcls (imm16 0x1A _ hk)⟩⟩
    · have hcls : FieldClass.boolOnly.contains f.cls = true := by simp [FieldClass.boolOnly, hbool]
      refine ⟨fun b hb => assemble_setb_eq_ok.mpr ⟨hb, assembleField_of_names [] hname hcls ?_⟩,
        assembleField_of_names [] hname hcls (noImm 0x1C)⟩
      have hbit : (BitVec.ofBool (decide (b.value = 1))).setWidth 16 = BitVec.ofNat 16 b.value := by
        obtain h0 | h1 : b.value = 0 ∨ b.value = 1 := by omega
        · rw [h0]; rfl
        · rw [h1]; rfl
      rw [encode, hbit]
      exact imm16 0x1B _ (by omega)
  · obtain ⟨i, hwf, rfl⟩ := presentsWellFormed_assemble h w hmem
    exact ⟨i, decodeReadsBackEncode i hwf⟩

end Sys2Proof.Machine
end

section
/-! PROOFS. The statements of 40_record_codec.md. First the record by its fields and by its bytes: unpack and pack are
inverse bit for bit, because the fields tile the record (R22, R101, R106). Then hex strings and the records they spell
(R102 to R104), then what DECODE, HEXDEC and ENCODE answer, and last the laws of R107 to R109. -/

namespace Sys2Proof

/-- A word reads as an instruction exactly where it is the word of that well-formed instruction. -/
theorem decodeCmd_eq_ok_iff {w : Word} {i : Instr} : decodeCmd w = .ok i ↔ w = encode i ∧ i.wf = true := by
  refine ⟨fun h => ?_, fun ⟨hw, hwf⟩ => hw ▸ decodeReadsBackEncode i hwf⟩
  obtain ⟨hw, hwf⟩ := decodedWordIsTheEncoding w i h
  exact ⟨hw.symm, hwf⟩

/-- For a command without operands, the word is all there is to check. -/
theorem decodeCmd_eq_ok_iff_of_wf {w : Word} {i : Instr} (hwf : i.wf = true) :
    decodeCmd w = .ok i ↔ w = encode i := by
  simp [decodeCmd_eq_ok_iff, hwf]

theorem Field.hi_sub_lo_add_one (f : Field) : f.hi - f.lo + 1 = f.width := by
  have := f.hi_eq
  have := f.width_pos
  omega

theorem Field.le_hi_iff {f : Field} {k : Nat} : k ≤ f.hi ↔ k < f.lo + f.width := by
  have := f.hi_eq
  have := f.width_pos
  omega

/-- A bit lies in one field only (R22). -/
theorem Field.eq_of_covers {f g : Field} {k : Nat} (hf : f.lo ≤ k ∧ k < f.lo + f.width)
    (hg : g.lo ≤ k ∧ k < g.lo + g.width) : f = g := by
  by_contra hne
  have := Field.disjoint hne
  omega

end Sys2Proof

namespace Sys2Proof.Machine

/-! ### The record by its fields (R101, R106) -/

theorem unpack_eq_slice (r : Record) (f : Field) :
    unpack r f = (r.extractLsb' f.lo (f.hi - f.lo + 1)).setWidth 16 := by
  rw [f.hi_sub_lo_add_one, unpack]

theorem unpack_getLsbD (r : Record) (f : Field) (k : Nat) :
    (unpack r f).getLsbD k = (decide (k < f.width) && r.getLsbD (f.lo + k)) := by
  have := f.width_le
  simp [unpack]
  omega

theorem extractLsb'_pack (fs : FieldSet) (f : Field) :
    (pack fs).extractLsb' f.lo f.width = (fs.get f.index).setWidth f.width := by
  ext k hk
  rw [BitVec.getElem_extractLsb', pack_getLsbD (f := f) (by omega) (by omega), BitVec.getElem_setWidth,
    Nat.add_sub_cancel_left]

/-- The truncation in `pack` drops nothing of a value in width. -/
theorem unpack_pack {fs : FieldSet} {f : Field} (hfit : Fits f (fs.get f.index)) :
    unpack (pack fs) f = fs.get f.index := by
  have hw : f.width ≤ 16 := f.width_le.trans (by decide)
  apply BitVec.eq_of_toNat_eq
  rw [unpack, extractLsb'_pack, BitVec.toNat_setWidth_of_le hw, BitVec.toNat_setWidth, Nat.mod_eq_of_lt hfit]

/-- Every bit of the record comes back from the field that covers it. -/
theorem pack_fieldSetOf_unpack (r : Record) : pack (fieldSetOf (unpack r)) = r := by
  apply BitVec.eq_of_getLsbD_eq
  intro k hk
  obtain ⟨f, hlo, hhi⟩ := Field.covers hk
  have hw : k - f.lo < f.width := by omega
  rw [pack_getLsbD hlo hhi, fieldSetOf_get, unpack_getLsbD, Nat.add_sub_cancel' hlo, decide_eq_true hw, Bool.true_and]

theorem fieldSetOf_unpack_pack {s : State} (hfit : InWidth s) : fieldSetOf (unpack (pack s.fs)) = s.fs :=
  fieldSet_ext fun f => by rw [fieldSetOf_get, unpack_pack (hfit f)]

/-- Settles O20: the fields tile the record. -/
theorem packPlacesEachField : Obligations.PackPlacesEachField := by
  refine ⟨extractLsb'_pack, fun fs k hk => ?_⟩
  obtain ⟨f, hlo, hhi⟩ := Field.covers hk
  refine ⟨f, ⟨hlo, Field.le_hi_iff.mpr hhi, pack_getLsbD hlo hhi⟩, fun g ⟨hglo, hghi, _⟩ => ?_⟩
  exact Field.eq_of_covers ⟨hglo, Field.le_hi_iff.mp hghi⟩ ⟨hlo, hhi⟩

/-! ### The record by its bytes (R23) -/

theorem recordBytes_append (b0 b1 b2 b3 b4 b5 b6 : Byte) :
    recordBytes (b0 ++ b1 ++ b2 ++ b3 ++ b4 ++ b5 ++ b6) = [b0, b1, b2, b3, b4, b5, b6] := by
  have last {n : Nat} (x : BitVec n) (b : Byte) : (x ++ b).extractLsb' 0 8 = b := BitVec.extractLsb'_append_eq_right
  have front {n : Nat} (x : BitVec n) (b : Byte) (k : Nat) :
      (x ++ b).extractLsb' (k + 8) 8 = x.extractLsb' k 8 := BitVec.extractLsb'_append_eq_of_le (by omega)
  simp [recordBytes, recordByte, List.range_succ, last, front]

theorem recordOfOctets_recordBytes (r : Record) : recordOfOctets (recordBytes r) = r := by
  have join (lo n : Nat) : r.extractLsb' (lo + 8) n ++ r.extractLsb' lo 8 = r.extractLsb' lo (n + 8) :=
    BitVec.extractLsb'_append_extractLsb'_eq_extractLsb' rfl
  calc recordOfOctets (recordBytes r)
    _ = r.extractLsb' 48 8 ++ r.extractLsb' 40 8 ++ r.extractLsb' 32 8 ++ r.extractLsb' 24 8 ++ r.extractLsb' 16 8
          ++ r.extractLsb' 8 8 ++ r.extractLsb' 0 8 := rfl
    _ = r.extractLsb' 0 56 := by rw [join 40 8, join 32, join 24, join 16, join 8, join 0]
    _ = r := BitVec.extractLsb'_eq_self

/-- A field's slice of the record is its slice of its byte: the two placings of R21. -/
theorem extractLsb'_recordByte (r : Record) (f : Field) :
    (recordByte r f.byteNo).extractLsb' f.byteLo f.width = r.extractLsb' f.lo f.width := by
  ext k hk
  have := f.byteLo_add_width_le
  have hbit : f.byteLo + k < 8 := by omega
  simp [recordByte, f.lo_eq, hbit, Nat.add_assoc]

/-- A slice is a shift and a mask. -/
theorem setWidth_extractLsb' (b : Byte) (lo : Nat) {w : Nat} (hw : w ≤ 16) :
    (b.extractLsb' lo w).setWidth 16 = (b >>> lo).setWidth 16 &&& BitVec.ofNat 16 (2 ^ w - 1) := by
  have hpow : 2 ^ w ≤ 2 ^ 16 := Nat.pow_le_pow_right (by decide) hw
  apply BitVec.eq_of_toNat_eq
  rw [BitVec.toNat_setWidth_of_le hw, BitVec.toNat_and, BitVec.toNat_setWidth_of_le (by decide), BitVec.toNat_ofNat,
    Nat.mod_eq_of_lt (by omega), Nat.and_two_pow_sub_one_eq_mod, BitVec.extractLsb'_toNat, BitVec.toNat_ushiftRight]

theorem unpack_eq_shift_and_mask (r : Record) (f : Field) : unpack r f =
    ((recordBytes r).getD f.byteNo 0 >>> f.byteLo).setWidth 16 &&& BitVec.ofNat 16 (2 ^ f.width - 1) := by
  have hbyte : f.byteNo < 7 := by cases f <;> decide
  rw [unpack, ← extractLsb'_recordByte, setWidth_extractLsb' _ _ (f.width_le.trans (by decide)),
    recordBytes_getD r hbyte]

/-- Settles O19. -/
theorem unpackIsShiftAndMask : Obligations.UnpackIsShiftAndMask := by
  intro b0 b1 b2 b3 b4 b5 b6 f
  refine ⟨unpack_eq_slice _ f, ?_, unpack_fits _ f⟩
  rw [unpack_eq_shift_and_mask, recordBytes_append]

/-! ### Hex characters and the records they spell (R102 to R104) -/

theorem firstNonHex_eq_some {octets : List Byte} {i : Nat} : firstNonHex octets = some i ↔
    i < octets.length ∧ hexval (octets.getD i 0) = none ∧ ∀ j < i, hexval (octets.getD j 0) ≠ none := by
  rw [firstNonHex, List.findIdx?_eq_some_iff_getElem, ← exists_prop]
  refine exists_congr fun hi => and_congr ?_ (forall₂_congr fun j hj => ?_)
  · simp [hi]
  · simp [hj.trans hi]

theorem firstNonHex_eq_none_of_getD {octets : List Byte}
    (h : ∀ i < octets.length, ∃ d, hexval (octets.getD i 0) = some d) : firstNonHex octets = none := by
  cases hbad : firstNonHex octets with
  | none => rfl
  | some i =>
    obtain ⟨hi, hnone, -⟩ := firstNonHex_eq_some.mp hbad
    obtain ⟨d, hd⟩ := h i hi
    rw [hd] at hnone
    cases hnone

/-- STATUS of InvalidHexCharacter(i) (R102, 60_exceptions.md R201, R205). -/
theorem raise_invalidHexCharacter (s : State) {i : Nat} (hi : i < 14) :
    s.raise .invalidHexCharacter (BitVec.ofNat 5 i) = { s with status := errorStatus 2 i } := by
  have hstatus : ∀ i < 14, statusWord ErrorKind.invalidHexCharacter.code (BitVec.ofNat 5 i) {} = errorStatus 2 i := by
    decide
  rw [State.raise, hstatus i hi]

/-- The record of 14 hex digits has them in the order of the string (20_memory.md R54). -/
theorem recordOfHex_of_digits {octets : List Byte} {d : Fin 14 → BitVec 4}
    (h : ∀ i, hexval (octets.getD i.val 0) = some (d i)) : recordOfHex octets =
      d 0 ++ d 1 ++ d 2 ++ d 3 ++ d 4 ++ d 5 ++ d 6 ++ d 7 ++ d 8 ++ d 9 ++ d 10 ++ d 11 ++ d 12 ++ d 13 := by
  have hd (i : Fin 14) : hexNibble octets i.val = d i := by rw [hexNibble, octet, h, Option.getD_some]
  have hbytes : recordOfHex octets = (d 0 ++ d 1) ++ (d 2 ++ d 3) ++ (d 4 ++ d 5) ++ (d 6 ++ d 7) ++ (d 8 ++ d 9)
      ++ (d 10 ++ d 11) ++ (d 12 ++ d 13) := by
    simp only [← hd]
    rfl
  rw [hbytes]
  apply BitVec.eq_of_toNat_eq
  simp only [BitVec.toNat_append, Nat.shiftLeft_or_distrib, ← Nat.shiftLeft_add, Nat.or_assoc]

/-- The octets spell the record in hex: two digits for each byte, the high nibble first (R102). -/
def Spells (octets : List Byte) (r : Record) : Prop :=
  ∀ i < 7, hexval (octets.getD (2 * i) 0) = some ((recordByte r i).extractLsb' 4 4) ∧
    hexval (octets.getD (2 * i + 1) 0) = some ((recordByte r i).extractLsb' 0 4)

section
variable {octets : List Byte} {r : Record}

theorem Spells.hexByte_eq (h : Spells octets r) {i : Nat} (hi : i < 7) : hexByte octets i = recordByte r i := by
  obtain ⟨hhigh, hlow⟩ := h i hi
  rw [hexByte, hexNibble, hexNibble, octet, octet, hhigh, hlow]
  exact (BitVec.extractLsb'_append_extractLsb'_eq_extractLsb' rfl).trans BitVec.extractLsb'_eq_self

theorem Spells.recordOfHex_eq (h : Spells octets r) : recordOfHex octets = r := by
  have hbytes : (List.range 7).map (hexByte octets) = recordBytes r :=
    List.map_congr_left fun i hi => h.hexByte_eq (List.mem_range.mp hi)
  rw [recordOfHex, hbytes, recordOfOctets_recordBytes]

theorem Spells.firstNonHex_eq_none (h : Spells octets r) (hlen : octets.length = 14) : firstNonHex octets = none := by
  refine firstNonHex_eq_none_of_getD fun i hi => ?_
  obtain ⟨j, rfl | rfl⟩ : ∃ j, i = 2 * j ∨ i = 2 * j + 1 := ⟨i / 2, by omega⟩
  · exact ⟨_, (h j (by omega)).1⟩
  · exact ⟨_, (h j (by omega)).2⟩

end

/-- R103 reads R104's digits back. -/
@[simp] theorem hexval_hexdigit : ∀ n, hexval (hexdigit n) = some n := by decide

theorem hexdigit_not_upper : ∀ n, ¬ (0x41 ≤ hexdigit n ∧ hexdigit n ≤ 0x46) := by decide

theorem exists_hexdigit_of_mem_hexOfRecord {r : Record} {c : Byte} (h : c ∈ hexOfRecord r) :
    ∃ n, c = hexdigit n := by
  obtain ⟨b, -, hc⟩ := List.mem_flatMap.mp h
  obtain rfl | rfl : c = hexdigit (b.extractLsb' 4 4) ∨ c = hexdigit (b.extractLsb' 0 4) := by
    simpa [hexPair] using hc
  · exact ⟨_, rfl⟩
  · exact ⟨_, rfl⟩

theorem spells_hexOfRecord (r : Record) : Spells (hexOfRecord r) r := by
  intro i hi
  interval_cases i <;> exact ⟨hexval_hexdigit _, hexval_hexdigit _⟩

@[simp] theorem observe_hexOut (s : State) : observe .hexOut s = s.recOut.observe fun r => .chars (hexOfRecord r) := rfl

/-- Settles O21: the view's characters are the digits of the record's bytes, and they spell it. -/
theorem hexOutSpellsTheRecord : Obligations.HexOutSpellsTheRecord := by
  refine ⟨fun s h => OutReg.observe_of_not_valid h _, fun s r h => ?_⟩
  refine ⟨hexOfRecord r, by rw [observe_hexOut, h, OutReg.observe_holds], rfl, ?_, fun c hc => ?_,
    (spells_hexOfRecord r).recordOfHex_eq⟩
  · rintro i hi b rfl
    exact spells_hexOfRecord r i hi
  · obtain ⟨n, rfl⟩ := exists_hexdigit_of_mem_hexOfRecord hc
    exact hexdigit_not_upper n

/-! ### DECODE, HEXDEC and ENCODE (R100, R102, R105) -/

/-- The state DECODE or HEXDEC of the record r leaves: every field register loaded, STATUS 0. -/
def State.loadRecord (s : State) (r : Record) : State := (s.setAllFields (unpack r)).complete {}

@[simp] theorem State.loadRecord_fs (s : State) (r : Record) : (s.loadRecord r).fs = fieldSetOf (unpack r) := rfl
@[simp] theorem State.loadRecord_status (s : State) (r : Record) : (s.loadRecord r).status = 0 := statusWord_ok

theorem State.changesFieldsOnly_loadRecord (s : State) (r : Record) : ChangesFieldsOnly s (s.loadRecord r) := rfl

@[simp] theorem State.field_loadRecord (s : State) (r : Record) (f : Field) : (s.loadRecord r).field f = unpack r f :=
  State.field_setAllFields s _ f

theorem inWidth_loadRecord (s : State) (r : Record) : InWidth (s.loadRecord r) :=
  fun f => by rw [State.field_loadRecord]; exact unpack_fits r f

theorem exec_decode_of_length {s : State} (hlen : s.din.length = 7) :
    exec .decode s = .next (s.loadRecord (recordOfOctets s.din)) := exec_of_effect (.decode hlen)

theorem exec_decode_of_bytes {s : State} {r : Record} (h : s.din = recordBytes r) :
    exec .decode s = .next (s.loadRecord r) := by
  rw [exec_decode_of_length (by rw [h, recordBytes_length]), h, recordOfOctets_recordBytes]

theorem exec_hexdec_of_digits {s : State} (hlen : s.din.length = 14) (hok : firstNonHex s.din = none) :
    exec .hexdec s = .next (s.loadRecord (recordOfHex s.din)) := exec_of_effect (.hexdec hlen hok)

theorem exec_hexdec_of_spells {s : State} {r : Record} (hlen : s.din.length = 14) (h : Spells s.din r) :
    exec .hexdec s = .next (s.loadRecord r) := by
  rw [exec_hexdec_of_digits hlen (h.firstNonHex_eq_none hlen), h.recordOfHex_eq]

/-- The state ENCODE leaves where every field fits: the packed record in REC_OUT, STATUS 0. -/
def State.storeRecord (s : State) : State := State.complete { s with recOut := .holds (pack s.fs) } {}

@[simp] theorem State.storeRecord_recOut (s : State) : s.storeRecord.recOut = .holds (pack s.fs) := rfl
@[simp] theorem State.storeRecord_status (s : State) : s.storeRecord.status = 0 := statusWord_ok

theorem State.changesRecOutOnly_storeRecord (s : State) : ChangesRecOutOnly s s.storeRecord := rfl

theorem exec_encode_of_inWidth {s : State} (hfit : InWidth s) : exec .encode s = .next s.storeRecord :=
  exec_of_effect (.encode (firstOverflow_eq_none.mpr hfit))

/-- Settles O16 (R100). -/
theorem decodeCommand : Obligations.DecodeCommand := by
  refine ⟨fun w => decodeCmd_eq_ok_iff_of_wf rfl, fun s hlen => exec_of_raises (.decodeLength hlen),
    fun s b0 b1 b2 b3 b4 b5 b6 hdin => ?_⟩
  refine ⟨_, exec_decode_of_length (by rw [hdin]; rfl), s.loadRecord_status _, s.changesFieldsOnly_loadRecord _,
    fun f => ?_⟩
  rw [State.field_loadRecord, unpack_eq_slice, hdin]
  rfl

/-- Settles O17 (R102, R103). -/
theorem hexdecCommand : Obligations.HexdecCommand := by
  refine ⟨fun _ => rfl, fun w => decodeCmd_eq_ok_iff_of_wf rfl, fun s hlen => exec_of_raises (.hexdecLength hlen),
    fun s i hlen hi hbad hbefore => ?_, fun s d hlen hd => ?_⟩
  · have hfirst : firstNonHex s.din = some i := firstNonHex_eq_some.mpr ⟨hlen ▸ hi, hbad, hbefore⟩
    rw [exec_of_raises (.hexdecCharacter hlen hfirst), raise_invalidHexCharacter s hi]
  · have hok : firstNonHex s.din = none := firstNonHex_eq_none_of_getD fun i hi => ⟨_, hd ⟨i, hlen ▸ hi⟩⟩
    refine ⟨_, exec_hexdec_of_digits hlen hok, s.loadRecord_status _, s.changesFieldsOnly_loadRecord _, fun f => ?_⟩
    rw [State.field_loadRecord, unpack_eq_slice, recordOfHex_of_digits hd]

/-- Settles O18 (R105). -/
theorem encodeCommand : Obligations.EncodeCommand := by
  refine ⟨fun w => decodeCmd_eq_ok_iff_of_wf rfl, fun s f hover hlower => ?_, fun s hfit => ?_⟩
  · have hfirst : firstOverflow s.fs = some f := firstOverflow_eq_some.mpr ⟨Nat.not_lt.mpr hover, hlower⟩
    rw [exec_of_raises (.encodeOverflow hfirst), raise_fieldOverflow]
  · refine ⟨_, _, exec_encode_of_inWidth hfit, rfl, s.storeRecord_status, s.changesRecOutOnly_storeRecord,
      fun f => ?_⟩
    rw [← unpack_eq_slice, unpack_pack (hfit f), State.field]

/-! ### The laws of R107 and R108 -/

/-- Settles O22: both commands load the same record. -/
theorem decodeAndHexdecAgree : Obligations.DecodeAndHexdecAgree := by
  intro s u r hbytes hlen hspells
  exact ⟨_, _, exec_decode_of_bytes hbytes, exec_hexdec_of_spells hlen hspells, rfl, s.loadRecord_status r,
    u.loadRecord_status r⟩

/-- What is unpacked fits, so ENCODE succeeds, and it packs the record again. -/
theorem exec_encode_loadRecord (s : State) (r : Record) :
    ∃ u, exec .encode (s.loadRecord r) = .next u ∧ u.recOut = .holds r ∧ u.status = 0x0000 := by
  refine ⟨_, exec_encode_of_inWidth (inWidth_loadRecord s r), ?_, (s.loadRecord r).storeRecord_status⟩
  rw [State.storeRecord_recOut, State.loadRecord_fs, pack_fieldSetOf_unpack]

/-- Settles O23: pack inverts unpack (R107). -/
theorem recordRoundTrip : Obligations.RecordRoundTrip := by
  refine ⟨fun s r hbytes => ?_, fun s r hlen hspells => ?_⟩
  · obtain ⟨u, hu⟩ := exec_encode_loadRecord s r
    exact ⟨_, u, exec_decode_of_bytes hbytes, hu⟩
  · obtain ⟨u, hu⟩ := exec_encode_loadRecord s r
    exact ⟨_, u, exec_hexdec_of_spells hlen hspells, hu⟩

/-- Settles O24: unpack inverts pack in width (R108). -/
theorem fieldSetRoundTrip : Obligations.FieldSetRoundTrip := by
  intro s hfit
  exact ⟨_, _, _, exec_encode_of_inWidth hfit, rfl, exec_decode_of_bytes rfl, fieldSetOf_unpack_pack hfit,
    State.loadRecord_status _ _⟩

/-! ### The reserved bit over a run (R109) -/

theorem run_succ_of_step {M : Host.Core} {s s' : M.State} (h : M.step s = .next s') (k : Nat) :
    M.run (k + 1) s = M.run k s' := by
  rw [Host.Core.run, h]

theorem step_of_run_succ {M : Host.Core} {s u : M.State} {k : Nat} (h : M.run (k + 1) s = .next u) :
    ∃ s', M.step s = .next s' ∧ M.run k s' = .next u := by
  rw [Host.Core.run] at h
  split at h
  · next s' hstep => exact ⟨s', hstep, h⟩
  · cases h
  · cases h

/-- R109's step lemma along a run. -/
theorem run_keeps_rsvd {k : Nat} {s u : State}
    (hkeep : ∀ j < k, ∀ v, Sys2Proof.core.run j s = .next v → NextInputKeepsRsvd v)
    (h : Sys2Proof.core.run k s = .next u) : u.field .RSVD = s.field .RSVD := by
  induction k generalizing s with
  | zero => cases h; rfl
  | succ k ih =>
    obtain ⟨s', hstep, hrun⟩ := step_of_run_succ h
    have hfirst : s'.field .RSVD = s.field .RSVD := reservedBitKeptByStep s s' (hkeep 0 k.succ_pos s rfl) hstep
    rw [ih (fun j hj v hv => hkeep (j + 1) (Nat.succ_lt_succ hj) v (run_succ_of_step hstep j ▸ hv)) hrun, hfirst]

theorem setWidth_ofBool_injective {a b : Bool}
    (h : (BitVec.ofBool a).setWidth 16 = (BitVec.ofBool b).setWidth 16) : a = b := by
  revert h
  cases a <;> cases b <;> decide

theorem step_decode_of_bytes {s : State} {r : Record} {rest : List HostInput}
    (hhost : s.host = .command 0x01000000 :: rest) (hdin : s.din = recordBytes r) :
    step s = .next (State.loadRecord { s with host := rest } r) := by
  rw [step_of_command hhost, performWord_of_ok ((decodeCommand.1 _).mpr rfl)]
  exact exec_decode_of_bytes hdin

theorem step_encode_stores_rsvd {s t : State} {rest : List HostInput} (hhost : s.host = .command 0x03000000 :: rest)
    (h : step s = .next t) (hok : statusErr t.status = 0) :
    ∃ r, t.recOut = .holds r ∧ s.field .RSVD = (BitVec.ofBool (r.getLsbD 34)).setWidth 16 := by
  rw [step_of_command hhost, performWord_of_ok ((encodeCommand.1 _).mpr rfl)] at h
  cases exec_iff_effect.mp h with
  | raised hr => simp at hok
  | encode hfit => exact ⟨_, rfl, pack_rsvd (s := s) (firstOverflow_eq_none.mp hfit .RSVD)⟩

/-- Settles O26: DECODE loads bit 34 into RSVD, the steps between keep it, and ENCODE stores it. -/
theorem reservedBitSurvivesToEncode : Obligations.ReservedBitSurvivesToEncode := by
  intro s s1 u t r rest rest' k hhost hdin hstep hkeep hrun huhost hlast hok
  obtain ⟨r', hrec, hstored⟩ := step_encode_stores_rsvd huhost hlast hok
  rw [step_decode_of_bytes hhost hdin] at hstep
  cases hstep
  refine ⟨r', hrec, setWidth_ofBool_injective ?_⟩
  calc (BitVec.ofBool (r'.getLsbD 34)).setWidth 16
    _ = u.field .RSVD := hstored.symm
    _ = (State.loadRecord { s with host := rest } r).field .RSVD := run_keeps_rsvd hkeep hrun
    _ = unpack r .RSVD := State.field_loadRecord _ r .RSVD
    _ = (BitVec.ofBool (r.getLsbD 34)).setWidth 16 := unpack_rsvd r

end Sys2Proof.Machine
end

section
/-! PROOFS. The statements of 41_field_access.md. First the words of LDF, SETF and RDF, and the words with their opcodes
that are no command; then what a write of one field register leaves; last that no command but NOP does what NOP does,
shown in one state in which every other command leaves a trace. -/

namespace Sys2Proof.Machine

/-! ### Command words (R80, R120 to R124) -/

/-- The word R80 writes for a field and an immediate, as the sum of its parts. -/
theorem commandWord_eq_or_setWidth (op : BitVec 8) (f : Field) (imm : RegVal) : commandWord op f.code imm =
    op.setWidth 32 <<< 24 ||| BitVec.ofNat 32 f.index.val <<< 16 ||| imm.setWidth 32 := by
  simpa using commandWord_eq_or op f imm.isLt

/-- LDF, SETF and RDF take a field of any class (R73). -/
@[simp] theorem wf_ldf (f : Field) (v : RegVal) : (Instr.ldf f v).wf = true := any_contains_cls f
@[simp] theorem wf_setf (f : Field) (v : RegVal) : (Instr.setf f v).wf = true := any_contains_cls f
@[simp] theorem wf_rdf (f : Field) : (Instr.rdf f).wf = true := any_contains_cls f

/-- The words of a well-formed instruction that carries a field and an immediate. -/
theorem decodeCmd_eq_ok_iff_or {i : Instr} {op : BitVec 8} {f : Field} {imm : RegVal} (hwf : i.wf = true)
    (hword : encode i = commandWord op f.code imm) (w : Word) : decodeCmd w = .ok i ↔
      w = op.setWidth 32 <<< 24 ||| BitVec.ofNat 32 f.index.val <<< 16 ||| imm.setWidth 32 := by
  rw [decodeCmd_eq_ok_iff_of_wf hwf, hword, commandWord_eq_or_setWidth]

theorem performWord_of_requiredZeroBroken {w : Word} (h : RequiredZeroBroken w) (s : State) :
    performWord w s = .next { s with status := 0x0006 } :=
  rejectedWordsRaiseIllegalCommand.2 w s (.inr (.inl h))

theorem performWord_of_fieldInadmissible {w : Word} (h : FieldInadmissible w) (s : State) :
    performWord w s = .next { s with status := 0x0006 } :=
  rejectedWordsRaiseIllegalCommand.2 w s (.inr (.inr h))

/-- LDF, SETF and RDF take every field, so their field is rejected for its index or the z bits alone (R73, R75). -/
theorem performWord_of_badField {w : Word} (hop : wordOp w ∈ ([0x09, 0x0A, 0x0B] : List (BitVec 8)))
    (h : 17 < (wordF w).toNat ∨ wordZ w ≠ 0) (s : State) : performWord w s = .next { s with status := 0x0006 } :=
  h.elim (fun hf => performWord_of_fieldInadmissible (.inl ⟨hop, hf⟩) s)
    fun hz => performWord_of_requiredZeroBroken (.inl hz) s

/-- RDF takes no immediate (R75). -/
theorem requiredZeroBroken_of_rdf_imm {w : Word} (hop : wordOp w = 0x0B) (himm : wordImm w ≠ 0) :
    RequiredZeroBroken w :=
  .inr (.inr (.inl ⟨by rw [hop]; decide, by rw [hop]; decide, himm⟩))

/-- NOP's word has every bit fixed at 0 (R75). -/
theorem requiredZeroBroken_of_nop_op {w : Word} (hop : wordOp w = 0x00) (hw : w ≠ 0x00000000) :
    RequiredZeroBroken w := by
  refine (requiredZeroBroken_iff (r := opcodeMap[0]) (List.getElem_mem _) hop).mpr fun ha => hw ?_
  obtain ⟨-, hz, hf, himm⟩ := (accepts_iff (r := opcodeMap[0]) (List.getElem_mem _) w).mp ha
  exact word_eq_iff.mpr ⟨hop, hz, BitVec.and_allOnes.symm.trans hf, BitVec.and_allOnes.symm.trans himm⟩

/-! ### A write of one field register (R122, R124) -/

/-- What a completed write of field f leaves: the value there, STATUS 0, everything else as it was. -/
theorem setField_complete_frame (s : State) (f : Field) (v : RegVal) :
    ((s.setField f v).complete {}).field f = v ∧ ((s.setField f v).complete {}).status = 0x0000 ∧
      ChangesFieldOnly f s ((s.setField f v).complete {}) :=
  ⟨by simp, statusWord_ok, fun _ hg => by simp [hg], rfl⟩

/-! ### Only NOP clears STATUS and does nothing else (R120) -/

/-- The reset state but for the field registers, which all hold a value that fits no field. -/
def State.overfull : State := State.reset.setAllFields fun _ => 0xFFFF

@[simp] theorem State.field_overfull (f : Field) : State.overfull.field f = 0xFFFF := State.field_setAllFields _ _ f

theorem not_fits_overfull (f : Field) : ¬ Fits f (State.overfull.field f) := by cases f <;> decide

/-- A command that leaves STATUS 0, writes no RESULT and leaves every register of the overfull state is NOP or loads
what is there: every other one raises, sets a flag, or writes RESULT or a value that fits. -/
theorem Effect.eq_nop_or_ldf {i : Instr} {t : State} (h : Effect .overfull i t) (hstatus : t.status = 0x0000)
    (hresult : t.result = .noValue) (hfield : ∀ f, t.field f = State.overfull.field f) :
    i = .nop ∨ ∃ f, i = .ldf f 0xFFFF := by
  have noFit {f : Field} (hfit : Fits f (t.field f)) : False := not_fits_overfull f (hfield f ▸ hfit)
  cases h with
  | nop => exact .inl rfl
  | ldf f v => exact .inr ⟨f, by simpa using hfield f⟩
  | raised hr => exact absurd hstatus (statusWord_error_ne_zero _ _)
  | decode hlen | hexdec hlen => cases hlen
  | encode hfit => exact absurd (firstOverflow_eq_none.mp hfit .VER) (not_fits_overfull .VER)
  | newfs => cases hfield .VER
  | rdf | enuml | getb => cases hresult
  | enumlEnd => exact absurd hstatus statusWord_end_ne_zero
  | @lumget f T hT hfit =>
    exact absurd (by rwa [Fits, width_of_lum (cls_of_lumTable hT)]) (not_fits_overfull f)
  | @getl f lt hlt hfit => exact absurd hfit (not_fits_overfull f)
  | @setf f v hfit => exact (noFit (f := f) (by simpa using hfit)).elim
  | @lumset f T hT => exact (noFit (f := f) (by simpa using lumIndex_fits (cls_of_lumTable hT) _)).elim
  | @setl f lt c hlt hc => exact (noFit (f := f) (by simpa using labelCode_fits hlt hc)).elim
  | @setb f b hb => exact (noFit (f := f) (by simpa using bit_fits f b)).elim
  | @setp p hp =>
    have hBY : Fits .BY p.BY := (Config.given.ok.presets.fit p (presetNamed_eq_some hp).1).BY
    exact (noFit (f := .BY) (by simpa [State.applyPreset] using hBY)).elim

/-- A load of the value the overfull state holds shows in the reset state. -/
theorem exists_state_exec_ne_nop {i : Instr} (hi : i ≠ .nop) :
    ∃ s : State, exec i s ≠ .next { s with status := 0x0000 } := by
  by_contra! hsilent
  obtain rfl | ⟨f, rfl⟩ := (exec_iff_effect.mp (hsilent .overfull)).eq_nop_or_ldf rfl rfl fun _ => rfl
  · exact hi rfl
  · have hloaded := (Effect.ldf f 0xFFFF).eq_of_exec (hsilent .reset)
    have hread : (0xFFFF : RegVal) = State.reset.field f :=
      (State.field_setField_self .reset f 0xFFFF).symm.trans (congrArg (State.field · f) hloaded)
    rw [State.field_reset] at hread
    cases hread

/-! ### The five commands -/

/-- Settles O29 (R120): the last clause in the overfull state, or in the reset state for a load of what the former holds. -/
theorem nopCommand : Obligations.NopCommand :=
  ⟨fun _ => decodeCmd_eq_ok_iff_of_wf rfl,
    fun _ hop hw s => performWord_of_requiredZeroBroken (requiredZeroBroken_of_nop_op hop hw) s,
    fun _ => exec_of_effect .nop, fun _ hi => exists_state_exec_ne_nop hi⟩

/-- Settles O30 (R121). -/
theorem newfsCommand : Obligations.NewfsCommand :=
  ⟨fun _ => decodeCmd_eq_ok_iff_of_wf rfl,
    fun s => ⟨_, exec_of_effect .newfs, fun f => s.field_setAllFields Field.default f, statusWord_ok, rfl⟩⟩

/-- Settles O31: the words by the encoder, the stored value by the write's frame, its consequences by R24. -/
theorem ldfCommand : Obligations.LdfCommand := by
  refine ⟨fun w f imm => decodeCmd_eq_ok_iff_or (wf_ldf f imm) rfl w,
    fun w hop h s => performWord_of_badField (by simp [hop]) h s,
    fun f imm s => ⟨_, exec_of_effect (.ldf f imm), setField_complete_frame s f imm⟩, fun f imm s hover => ?_⟩
  obtain ⟨hheld, -⟩ := setField_complete_frame s f imm
  obtain ⟨-, -, hconsequences⟩ := onlyLdfStoresOverflowingValues
  obtain ⟨⟨u, hencode, herr⟩, hreads, -⟩ := hconsequences f _ (hheld.symm ▸ hover)
  exact ⟨_, u, exec_of_effect (.ldf f imm), hencode, herr, hreads⟩

/-- Settles O32: as LDF, with the width check first. -/
theorem setfCommand : Obligations.SetfCommand := by
  refine ⟨fun w f imm => decodeCmd_eq_ok_iff_or (wf_setf f imm) rfl w,
    fun w hop h s => performWord_of_badField (by simp [hop]) h s, fun f imm s => ⟨fun hover => ?_, fun hfit => ?_⟩⟩
  · rw [exec_of_raises (.setfOverflow (Nat.not_lt.mpr hover)), raise_fieldOverflow]
  · exact ⟨_, exec_of_effect (.setf hfit), setField_complete_frame s f imm⟩

/-- Settles O33 (R123). -/
theorem rdfCommand : Obligations.RdfCommand := by
  refine ⟨fun w f => ?_, fun w hop h s => ?_, fun f s => exec_of_effect (.rdf f)⟩
  · rw [decodeCmd_eq_ok_iff_or (wf_rdf f) rfl w]
    exact iff_of_eq (congrArg (w = ·) BitVec.or_zero)
  · obtain hf | himm | hz := h
    · exact performWord_of_badField (by simp [hop]) (.inl hf) s
    · exact performWord_of_requiredZeroBroken (requiredZeroBroken_of_rdf_imm hop himm) s
    · exact performWord_of_badField (by simp [hop]) (.inr hz) s

end Sys2Proof.Machine
end

section
/-! PROOFS. The statements of 42_luminance.md. First `nearest` as the library's first minimum of the distance (R142),
and on a strictly increasing table by the midpoints of its entries; from these the closed form and the laws of R145 on
`nearest`. Then the words of LUMSET and LUMGET, and what the two commands leave. -/

namespace Sys2Proof.Machine

/-! ### The nearest entry (R142) -/

/-- The loop of R142 is the library's search for the first minimum, begun at `best`. -/
theorem foldl_argAux_eq_nearestFrom (T : LumTable) (x : Nits) (best : Fin 32) (l : List (Fin 32)) :
    l.foldl (List.argAux fun i j => |T i - x| < |T j - x|) (some best) = some (nearestFrom T x best l) := by
  induction l generalizing best with
  | nil => rfl
  | cons i rest ih => rw [nearestFrom, ← ih, List.foldl_cons, List.argAux, apply_ite some]

theorem argmin_eq_nearest (T : LumTable) (x : Nits) :
    (List.finRange 32).argmin (fun i => |T i - x|) = some (nearest T x) :=
  foldl_argAux_eq_nearestFrom T x 0 (List.finRange 32).tail

/-- R142 determines the index: no entry is closer, and every lower index is strictly farther. -/
theorem nearest_eq_iff {T : LumTable} {x : Nits} {i : Fin 32} : nearest T x = i ↔
    (∀ j, |T i - x| ≤ |T j - x|) ∧ ∀ j, j < i → |T i - x| < |T j - x| := by
  rw [← Option.some_inj, ← argmin_eq_nearest, List.argmin_eq_some_iff]
  simp only [List.mem_finRange, List.idxOf_finRange, true_and, forall_const, Fin.val_fin_le]
  exact and_congr_right' (forall_congr' fun j => by rw [← not_lt, ← not_lt, not_imp_not])

/-- Of two numbers, the upper is the closer one exactly to what lies past their midpoint. -/
theorem abs_sub_lt_abs_sub_iff_midpoint {p q x : Nits} (h : p < q) : |q - x| < |p - x| ↔ p + q < 2 * x := by
  rw [← sq_lt_sq, ← sub_pos, show (p - x) ^ 2 - (q - x) ^ 2 = (q - p) * (2 * x - (p + q)) by ring,
    mul_pos_iff_of_pos_left (sub_pos.mpr h), sub_pos]

section
variable {T : LumTable} (hT : StrictMono T)
include hT

/-- On a strictly increasing table, an index is the nearest one where x lies past its midpoints with the lower entries,
and not past those with the higher ones: a tie goes to the lower entry. -/
theorem nearest_eq_iff_midpoints {x : Nits} {i : Fin 32} : nearest T x = i ↔
    (∀ j, j < i → T j + T i < 2 * x) ∧ ∀ j, i < j → 2 * x ≤ T i + T j := by
  have hbelow {j} (hj : j < i) := abs_sub_lt_abs_sub_iff_midpoint (x := x) (hT hj)
  have habove {j} (hj : i < j) : |T i - x| ≤ |T j - x| ↔ 2 * x ≤ T i + T j := by
    rw [← not_lt, abs_sub_lt_abs_sub_iff_midpoint (hT hj), not_lt]
  rw [nearest_eq_iff]
  constructor
  · rintro ⟨hle, hlt⟩
    exact ⟨fun j hj => (hbelow hj).mp (hlt j hj), fun j hj => (habove hj).mp (hle j)⟩
  · rintro ⟨hlower, hupper⟩
    refine ⟨fun j => ?_, fun j hj => (hbelow hj).mpr (hlower j hj)⟩
    obtain hj | rfl | hj := lt_trichotomy j i
    · exact ((hbelow hj).mpr (hlower j hj)).le
    · exact le_rfl
    · exact (habove hj).mpr (hupper j hj)

/-- R145 (a) for `nearest`: an entry is nearest to itself. -/
theorem nearest_entry (i : Fin 32) : nearest T (T i) = i :=
  (nearest_eq_iff_midpoints hT).mpr ⟨fun _ hj => by linarith [hT hj], fun _ hj => by linarith [hT hj]⟩

theorem nearest_of_le_first {x : Nits} (hx : x ≤ T 0) : nearest T x = 0 :=
  (nearest_eq_iff_midpoints hT).mpr ⟨fun j hj => absurd hj (Fin.not_lt_zero j), fun _ hj => by linarith [hT hj]⟩

theorem nearest_of_last_le {x : Nits} (hx : T 31 ≤ x) : nearest T x = 31 :=
  (nearest_eq_iff_midpoints hT).mpr ⟨fun _ hj => by linarith [hT hj], fun j hj => absurd hj (Fin.le_last j).not_gt⟩

/-- Between two neighbours the nearer one is nearest, the lower one at the midpoint (R142). -/
theorem nearest_of_between {x : Nits} {i : Fin 31} (hlo : T i.castSucc ≤ x) (hhi : x < T i.succ) :
    nearest T x = if x - T i.castSucc ≤ T i.succ - x then i.castSucc else i.succ := by
  rw [nearest_eq_iff_midpoints hT]
  split_ifs with hmid
  · refine ⟨fun j hj => by linarith [hT hj], fun j hj => ?_⟩
    linarith [hT.monotone (Fin.castSucc_lt_iff_succ_le.mp hj)]
  · refine ⟨fun j hj => ?_, fun j hj => by linarith [hT hj]⟩
    linarith [hT.monotone (Fin.le_castSucc_iff.mpr hj)]

/-- R145 (c): were the index of the larger value the lower one, the midpoint of the two entries would lie below the
smaller value and not below the larger. -/
theorem nearest_mono {x y : Nits} (hxy : x ≤ y) : nearest T x ≤ nearest T y := by
  obtain ⟨hpast, -⟩ := (nearest_eq_iff_midpoints hT (x := x)).mp rfl
  obtain ⟨-, hnotPast⟩ := (nearest_eq_iff_midpoints hT (x := y)).mp rfl
  by_contra! hlt
  linarith [hpast _ hlt, hnotPast _ hlt]

end

/-- Settles O35: the choice of R142, and by midpoints its closed form. -/
theorem nearestIsLowestClosest : Obligations.NearestIsLowestClosest := by
  intro T x
  obtain ⟨hleast, hlowest⟩ := nearest_eq_iff.mp (rfl : nearest T x = _)
  refine ⟨hleast, hlowest, fun hinc => ?_⟩
  have hT : StrictMono T := Fin.strictMono_iff_lt_succ.mpr hinc
  exact ⟨nearest_of_le_first hT, nearest_of_last_le hT, fun _ => nearest_of_between hT⟩

/-! ### The two tables and the words of the two commands (R140, R80) -/

theorem lumTable_eq_some_iff {f : Field} {T : LumTable} : lumTable f = some T ↔
    (f = .MINLUM ∧ T = Config.minLumTable) ∨ (f = .MAXLUM ∧ T = Config.maxLumTable) := by
  cases f <;> simp [lumTable, eq_comm]

theorem lumTable_isSome_iff {f : Field} : (lumTable f).isSome = true ↔ f = .MINLUM ∨ f = .MAXLUM := by
  simp [Option.isSome_iff_exists, lumTable_eq_some_iff, exists_or]

/-- The words of an instruction that takes a field with a luminance table and no immediate. -/
theorem decodeCmd_eq_ok_iff_lum {i : Instr} {op : BitVec 8} {f : Field} (hwf : i.wf = (lumTable f).isSome)
    (hword : encode i = commandWord op f.code 0) (w : Word) : decodeCmd w = .ok i ↔
      (f = .MINLUM ∨ f = .MAXLUM) ∧ w = op.setWidth 32 <<< 24 ||| BitVec.ofNat 32 f.index.val <<< 16 := by
  rw [decodeCmd_eq_ok_iff, hwf, lumTable_isSome_iff, hword, commandWord_eq_or_setWidth, and_comm]
  exact and_congr_right' (iff_of_eq (congrArg (w = ·) BitVec.or_zero))

/-- LUMSET and LUMGET take no other field, no immediate and no z bits (R73, R75). -/
theorem performWord_of_rejectedLum {w : Word} (hop : wordOp w ∈ ([0x10, 0x11] : List (BitVec 8)))
    (h : (wordF w).toNat ∉ [4, 7] ∨ wordImm w ≠ 0 ∨ wordZ w ≠ 0) (s : State) :
    performWord w s = .next { s with status := 0x0006 } := by
  have hnoImm : ∀ op ∈ ([0x10, 0x11] : List (BitVec 8)), ¬ OpUsesImm op ∧ op ≠ 0x1B := by decide
  obtain ⟨huse, hsetb⟩ := hnoImm _ hop
  obtain hf | himm | hz := h
  · exact performWord_of_fieldInadmissible (.inr (.inl ⟨hop, hf⟩)) s
  · exact performWord_of_requiredZeroBroken (.inr (.inr (.inl ⟨huse, hsetb, himm⟩))) s
  · exact performWord_of_requiredZeroBroken (.inl hz) s

/-! ### What LUMSET and LUMGET leave (R143, R144) -/

/-- The state LUMSET of a field with table T leaves: the index of the nearest entry stored, APPROX where that entry is
not the value asked for. -/
def State.storeNearest (s : State) (f : Field) (T : LumTable) : State :=
  (s.setField f (BitVec.ofNat 16 (nearest T s.nitsIn).val)).complete
    { approx := decide (T (nearest T s.nitsIn) ≠ s.nitsIn) }

theorem exec_lumset {f : Field} {T : LumTable} (hT : lumTable f = some T) (s : State) :
    exec (.lumset f) s = .next (s.storeNearest f T) := exec_of_effect (.lumset hT)

@[simp] theorem State.field_storeNearest (s : State) (f : Field) (T : LumTable) :
    (s.storeNearest f T).field f = BitVec.ofNat 16 (nearest T s.nitsIn).val := by simp [State.storeNearest]

@[simp] theorem statusApprox_storeNearest (s : State) (f : Field) (T : LumTable) :
    statusApprox (s.storeNearest f T).status = false ↔ T (nearest T s.nitsIn) = s.nitsIn := by
  simp [State.storeNearest]

/-- APPROX is bit 8 (R32). -/
theorem statusWord_approx (b : Bool) : statusWord 0#3 0#5 { approx := b } = if b then 0x0100 else 0x0000 := by
  cases b <;> decide

theorem State.status_storeNearest (s : State) (f : Field) (T : LumTable) :
    (s.storeNearest f T).status = if T (nearest T s.nitsIn) = s.nitsIn then 0x0000 else 0x0100 := by
  simp [State.storeNearest, statusWord_approx]

theorem State.changesFieldOnly_storeNearest (s : State) (f : Field) (T : LumTable) :
    ChangesFieldOnly f s (s.storeNearest f T) :=
  ⟨fun _ hg => by simp [State.storeNearest, hg], rfl⟩

/-- Settles O36. -/
theorem lumsetCommand : Obligations.LumsetCommand := by
  refine ⟨fun w f => decodeCmd_eq_ok_iff_lum (wf_lumset f) rfl w,
    fun w hop h s => performWord_of_rejectedLum (by simp [hop]) h s, fun f T s hfT => ?_⟩
  obtain ⟨hleast, hlowest⟩ := nearest_eq_iff.mp (rfl : nearest T s.nitsIn = _)
  exact ⟨_, exec_lumset (lumTable_eq_some_iff.mpr hfT) s, s.changesFieldOnly_storeNearest f T, nearest T s.nitsIn,
    s.field_storeNearest f T, hleast, hlowest, s.status_storeNearest f T⟩

/-- LUMGET of an index in range reads its entry. -/
theorem exec_lumget_of_index {f : Field} {T : LumTable} (hT : lumTable f = some T) {s : State} {i : Fin 32}
    (hi : (s.field f).toNat = i.val) :
    exec (.lumget f) s = .next { s with nitsOut := .holds (T i), status := 0x0000 } := by
  have hfit : (s.field f).toNat < 32 := hi ▸ i.isLt
  obtain rfl : i = ⟨(s.field f).toNat, hfit⟩ := Fin.ext hi.symm
  exact exec_of_effect (.lumget hT hfit)

theorem exec_lumget_of_overflow {f : Field} {T : LumTable} (hT : lumTable f = some T) {s : State}
    (hover : 32 ≤ (s.field f).toNat) :
    exec (.lumget f) s = .next { s with status := errorStatus 3 f.index.val } := by
  have hnotFit : ¬ Fits f (s.field f) := by simpa [Fits, width_of_lum (cls_of_lumTable hT)] using hover
  rw [exec_of_readOverflow (by simp) (by simp [hT]) hnotFit, raise_fieldOverflow]

/-- Settles O37. -/
theorem lumgetCommand : Obligations.LumgetCommand := by
  refine ⟨fun w f => decodeCmd_eq_ok_iff_lum (wf_lumget f) rfl w,
    fun w hop h s => performWord_of_rejectedLum (by simp [hop]) h s, fun f T s hfT => ?_⟩
  have hT := lumTable_eq_some_iff.mpr hfT
  exact ⟨exec_lumget_of_overflow hT, fun i => exec_lumget_of_index hT⟩

/-! ### The laws of the lookup (R145) -/

/-- An index of a luminance table survives in a field register. -/
theorem lumIndex_toNat (i : Fin 32) : (BitVec.ofNat 16 i.val).toNat = i.val := by
  rw [BitVec.toNat_ofNat]
  omega

section
variable {f : Field} {T : LumTable} (hT : lumTable f = some T)
include hT

/-- R145 (a). -/
theorem exec_lumset_of_entry {s : State} {i : Fin 32} (hx : s.nitsIn = T i) :
    ∃ t, exec (.lumset f) s = .next t ∧ t.field f = BitVec.ofNat 16 i.val ∧ statusApprox t.status = false := by
  have hnear : nearest T s.nitsIn = i := hx ▸ nearest_entry (lumTable_strictMono hT) i
  refine ⟨_, exec_lumset hT s, ?_, ?_⟩
  · rw [State.field_storeNearest, hnear]
  · rw [statusApprox_storeNearest, hnear, hx]

/-- R145 (b). -/
theorem exec_lumset_lumget (s : State) : ∃ t u, exec (.lumset f) s = .next t ∧ exec (.lumget f) t = .next u ∧
    u.nitsOut = .holds (T (nearest T s.nitsIn)) ∧ (statusApprox t.status = false ↔ u.nitsOut = .holds s.nitsIn) :=
  ⟨_, _, exec_lumset hT s, exec_lumget_of_index hT (by rw [State.field_storeNearest, lumIndex_toNat]), rfl, by simp⟩

/-- R145 (d). -/
theorem exec_setf_lumget_lumset (i : Fin 32) (s : State) :
    ∃ t u v, exec (.setf f (BitVec.ofNat 16 i.val)) s = .next t ∧ exec (.lumget f) t = .next u ∧
      u.nitsOut = .holds (T i) ∧ exec (.lumset f) { u with nitsIn := T i } = .next v ∧
      v.field f = BitVec.ofNat 16 i.val := by
  have hset := exec_of_effect (s := s) (.setf (lumIndex_fits (cls_of_lumTable hT) i))
  have hget := exec_lumget_of_index hT (s := (s.setField f (BitVec.ofNat 16 i.val)).complete {}) (i := i)
    (by rw [State.field_complete, State.field_setField_self, lumIndex_toNat])
  refine ⟨_, _, _, hset, hget, rfl, exec_lumset hT _, ?_⟩
  rw [State.field_storeNearest, nearest_entry (lumTable_strictMono hT)]

end

/-- Settles O38: the tables by their constraints (R141), the laws by the commands run. -/
theorem lookupLaws : Obligations.LookupLaws := by
  obtain ⟨hminInc, hminFirst, hminLast, -⟩ := Config.given.ok.minLum
  obtain ⟨hmaxInc, hmaxFirst, hmaxLast, -⟩ := Config.given.ok.maxLum
  exact ⟨fun _ _ => lumTable_eq_some_iff, fun i => ⟨hminInc i, hmaxInc i⟩, hminFirst, hminLast, hmaxFirst, hmaxLast,
    fun _ _ _ _ hT => exec_lumset_of_entry hT, fun _ _ s hT => exec_lumset_lumget hT s,
    fun _ _ _ _ hT => nearest_mono (lumTable_strictMono hT), fun _ _ i s hT => exec_setf_lumget_lumset hT i s⟩

end Sys2Proof.Machine
end

section
/-! PROOFS. The statements of 43_flag_mappers.md. First the lookups: over a table without repeated keys a search finds
exactly its entries, which gives the two label maps (R166, R167) and the presets by name (R174). Then the label tables
by field with their sizes (R161 to R165), the words of the six commands, and what each command leaves. -/

namespace Sys2Proof.Machine

/-! ### Lookups by a key that no two entries share (R160, R173) -/

/-- The search for an entry's key finds that entry. -/
theorem find?_eq_some_of_nodup_map {α β : Type} {key : α → β} {l : List α} (hkeys : (l.map key).Nodup) {a : α}
    (ha : a ∈ l) {p : α → Bool} (hp : ∀ x, p x = true ↔ key x = key a) : l.find? p = some a := by
  obtain ⟨b, hb⟩ := Option.isSome_iff_exists.mp (List.find?_isSome.mpr ⟨a, ha, (hp a).mpr rfl⟩)
  have hkey : key b = key a := (hp b).mp (List.find?_some hb)
  rw [hb, List.inj_on_of_nodup_map hkeys (List.mem_of_find?_eq_some hb) ha hkey]

theorem codeToLabel_eq_unrecognized_iff {lt : LabelTable} {c : RegVal} :
    codeToLabel lt c = .unrecognized ↔ ∀ e ∈ lt, e.code ≠ c := by
  have hnone : lt.find? (fun e => e.code == c) = none ↔ ∀ e ∈ lt, e.code ≠ c := by simp
  rw [← hnone, codeToLabel]
  cases lt.find? (fun e => e.code == c) <;> simp

theorem labelToCode_eq_none_iff {lt : LabelTable} {l : Label} :
    labelToCode lt l = none ↔ ∀ e ∈ lt, e.label ≠ l := by
  simp [labelToCode]

section
variable {width : Nat} {lt : LabelTable} (hok : LabelTableOk width lt)
include hok

theorem codeToLabel_eq_label_iff {l : Label} {c : RegVal} :
    codeToLabel lt c = .label l ↔ (⟨l, c⟩ : LabelEntry) ∈ lt := by
  refine ⟨mem_of_codeToLabel, fun he => ?_⟩
  rw [codeToLabel, find?_eq_some_of_nodup_map hok.codesDistinct he (by simp)]

theorem labelToCode_eq_some_iff {l : Label} {c : RegVal} :
    labelToCode lt l = some c ↔ (⟨l, c⟩ : LabelEntry) ∈ lt := by
  refine ⟨mem_of_labelToCode, fun he => ?_⟩
  rw [labelToCode, find?_eq_some_of_nodup_map hok.labelsDistinct he (by simp), Option.map_some]

end

/-- Settles O39. -/
theorem labelMapsAreInverse : Obligations.LabelMapsAreInverse :=
  fun _ _ hok _ _ => ⟨codeToLabel_eq_label_iff hok, codeToLabel_eq_unrecognized_iff, labelToCode_eq_some_iff hok,
    labelToCode_eq_none_iff⟩

theorem presetNamed_eq_some_iff {n : PresetName} {p : Preset} :
    presetNamed n = some p ↔ p ∈ Config.presets ∧ p.name = n := by
  refine ⟨presetNamed_eq_some, fun ⟨hp, hname⟩ => ?_⟩
  exact find?_eq_some_of_nodup_map Config.given.ok.presets.namesDistinct hp (by simp [hname])

theorem presetNamed_eq_none_iff {n : PresetName} : presetNamed n = none ↔ ∀ p ∈ Config.presets, p.name ≠ n := by
  simp [presetNamed]

/-! ### The label tables by field (R161 to R165) -/

theorem labelTable_eq_some_iff {f : Field} {lt : LabelTable} : labelTable f = some lt ↔ LabelTableOf f lt := by
  cases f <;> simp [labelTable, LabelTableOf, ltBool, eq_comm]

theorem labelTable_of_bool {f : Field} (h : f.cls = .bool) : labelTable f = some ltBool := by
  revert h
  cases f <;> simp [labelTable, Field.cls]

theorem labelTable_isSome_iff {f : Field} : (labelTable f).isSome = true ↔ f.cls = .enum ∨ f.cls = .bool := by
  cases f <;> simp [labelTable, Field.cls]

/-- SETL, GETL and ENUML take no field without a label table, and no z bits (R73, R75). -/
theorem performWord_of_rejectedLabelled {w : Word} (hop : wordOp w ∈ ([0x18, 0x19, 0x1A] : List (BitVec 8)))
    (h : (wordF w).toNat ∉ [1, 2, 3, 5, 6, 9, 11, 13] ∨ wordZ w ≠ 0) (s : State) :
    performWord w s = .next { s with status := 0x0006 } :=
  h.elim (fun hf => performWord_of_fieldInadmissible (.inr (.inr (.inl ⟨hop, hf⟩))) s)
    fun hz => performWord_of_requiredZeroBroken (.inl hz) s

/-- Settles O40: the tables by field, and what the parameters' constraints fix of them. -/
theorem labelTables : Obligations.LabelTables := by
  refine ⟨fun _ _ => labelTable_eq_some_iff, fun f lt hf => ?_,
    ⟨Config.given.ok.dmvThree, Config.given.ok.dmv4x, Config.given.ok.dmvAscending⟩, Config.given.ok.blminCodes,
    Config.given.ok.ifmodeCodes, fun w s hop hf => performWord_of_rejectedLabelled hop (.inl hf) s⟩
  obtain ⟨hlabels, hcodes, hfit⟩ := labelTable_ok (labelTable_eq_some_iff.mpr hf)
  exact ⟨hlabels, hcodes, hfit⟩

/-- A table with the codes 0, 1, 2, 3 has four entries. -/
theorem length_of_codes {lt : LabelTable} (h : lt.map LabelEntryIn.code = [0, 1, 2, 3]) : lt.length = 4 := by
  simpa using congrArg List.length h

/-- Every field's table but DMV's has as many entries as the field has in-width codes. -/
theorem labelTable_length {f : Field} {lt : LabelTable} (h : labelTable f = some lt) :
    lt.length = if f = .DMV then 3 else 2 ^ f.width := by
  obtain ⟨hf, rfl⟩ | ⟨rfl, rfl⟩ | ⟨rfl, rfl⟩ | ⟨rfl, rfl⟩ := labelTable_eq_some_iff.mp h
  · have hbool : ∀ f ∈ [Field.BLC, .YUV12, .GDIM, .I12B444, .I10B444], 2 = if f = .DMV then 3 else 2 ^ f.width := by
      decide
    exact hbool f hf
  · exact Config.given.ok.dmvThree
  · exact length_of_codes Config.given.ok.blminCodes
  · exact length_of_codes Config.given.ok.ifmodeCodes

/-- A field with a label table, other than DMV, has two bits where its class is enum and one where it is bool. -/
theorem pow_width_of_labelled {f : Field} (hcls : f.cls = .enum ∨ f.cls = .bool) (hdmv : f ≠ .DMV) :
    2 ^ f.width = if f.cls = .enum then 4 else 2 := by
  revert hcls hdmv
  cases f <;> decide

/-! ### How many codes are unrecognized (R169) -/

/-- The in-width codes of field f that its table gives no label. -/
def codesWithoutLabel (f : Field) (lt : LabelTable) : List Nat :=
  (List.range (2 ^ f.width)).filter fun n => decide (codeToLabel lt (BitVec.ofNat 16 n) = .unrecognized)

section
variable {f : Field} {lt : LabelTable} (hlt : labelTable f = some lt)
include hlt

/-- The in-width codes with a label are the codes of the table's entries. -/
theorem recognized_iff_mem_codes {n : Nat} :
    n < 2 ^ f.width ∧ codeToLabel lt (BitVec.ofNat 16 n) ≠ .unrecognized ↔ n ∈ lt.map fun e => e.code.toNat := by
  rw [List.mem_map]
  constructor
  · rintro ⟨hn, hrec⟩
    obtain ⟨e, he, hcode⟩ : ∃ e ∈ lt, e.code = BitVec.ofNat 16 n := by
      simpa [codeToLabel_eq_unrecognized_iff] using hrec
    have hn16 : n < 2 ^ 16 := hn.trans_le (Nat.pow_le_pow_right (by decide) (f.width_le.trans (by decide)))
    exact ⟨e, he, by rw [hcode, BitVec.toNat_ofNat, Nat.mod_eq_of_lt hn16]⟩
  · rintro ⟨e, he, rfl⟩
    exact ⟨(labelTable_ok hlt).codesFit e he,
      fun hun => codeToLabel_eq_unrecognized_iff.mp hun e he (by simp)⟩

/-- Of the 2^W codes of a field, the unrecognized ones are those left over by the table's distinct codes. -/
theorem length_codesWithoutLabel_add : (codesWithoutLabel f lt).length + lt.length = 2 ^ f.width := by
  have hcodes : (lt.map fun e => e.code.toNat).Nodup := by
    simpa [Function.comp_def] using (labelTable_ok hlt).codesDistinct.map fun _ _ => BitVec.eq_of_toNat_eq
  have hperm : ((List.range (2 ^ f.width)).filter fun n =>
      !decide (codeToLabel lt (BitVec.ofNat 16 n) = .unrecognized)).Perm (lt.map fun e => e.code.toNat) := by
    refine (List.perm_ext_iff_of_nodup (List.nodup_range.filter _) hcodes).mpr fun n => ?_
    simpa using recognized_iff_mem_codes hlt (n := n)
  have hlength := hperm.length_eq
  rw [List.length_map] at hlength
  rw [← hlength, codesWithoutLabel, ← List.length_eq_length_filter_add, List.length_range]

end

/-- Settles O43: a table that has as many entries as its field has codes leaves none, DMV's leaves 8 - 3. -/
theorem unrecognizedCodes : Obligations.UnrecognizedCodes := by
  refine ⟨fun f lt c hf hlt hc hun => ?_, ?_⟩
  · have hcount := length_codesWithoutLabel_add hlt
    rw [labelTable_length hlt, if_neg hf, Nat.add_eq_right, List.length_eq_zero_iff] at hcount
    exact List.filter_eq_nil_iff.mp hcount c.toNat (List.mem_range.mpr hc) (by simpa using hun)
  · have hcount := length_codesWithoutLabel_add (f := .DMV) rfl
    rw [labelTable_length (f := .DMV) rfl] at hcount
    exact Nat.add_right_cancel hcount

/-! ### Command words (R80, R168 to R174) -/

/-- The words of a command that takes a field of class enum or bool. -/
theorem decodeCmd_eq_ok_iff_labelled {i : Instr} {op : BitVec 8} {f : Field} {imm : RegVal}
    (hwf : i.wf = (labelTable f).isSome) (hword : encode i = commandWord op f.code imm) (w : Word) :
    decodeCmd w = .ok i ↔ (f.cls = .enum ∨ f.cls = .bool) ∧
      w = op.setWidth 32 <<< 24 ||| BitVec.ofNat 32 f.index.val <<< 16 ||| imm.setWidth 32 := by
  rw [decodeCmd_eq_ok_iff, hwf, labelTable_isSome_iff, hword, commandWord_eq_or_setWidth, and_comm]

/-- The words of a command that takes a field of class bool. -/
theorem decodeCmd_eq_ok_iff_bool {i : Instr} {op : BitVec 8} {f : Field} {imm : RegVal}
    (hwf : i.wf = decide (f.cls = .bool)) (hword : encode i = commandWord op f.code imm) (w : Word) :
    decodeCmd w = .ok i ↔ f.cls = .bool ∧
      w = op.setWidth 32 <<< 24 ||| BitVec.ofNat 32 f.index.val <<< 16 ||| imm.setWidth 32 := by
  rw [decodeCmd_eq_ok_iff, hwf, decide_eq_true_iff, hword, commandWord_eq_or_setWidth, and_comm]

/-- A command without an immediate has 0 there, and its word is the sum of the other parts. -/
theorem and_eq_or_zero_imm {P : Prop} {w v : Word} : P ∧ w = v ||| (0 : RegVal).setWidth 32 ↔ P ∧ w = v :=
  and_congr_right' (iff_of_eq (congrArg (w = ·) BitVec.or_zero))

/-- SETB and GETB take no field of another class than bool, and no z bits (R73, R75). -/
theorem performWord_of_rejectedBool {w : Word} (hop : wordOp w ∈ ([0x1B, 0x1C] : List (BitVec 8)))
    (h : (wordF w).toNat ∉ [2, 3, 5, 11, 13] ∨ wordZ w ≠ 0) (s : State) :
    performWord w s = .next { s with status := 0x0006 } :=
  h.elim (fun hf => performWord_of_fieldInadmissible (.inr (.inr (.inr ⟨hop, hf⟩))) s)
    fun hz => performWord_of_requiredZeroBroken (.inl hz) s

/-- SETL, GETL and GETB take no immediate (R75), beside what else they reject. -/
theorem performWord_of_noImm {P : Prop} {w : Word} {s : State}
    (hop : wordOp w ∈ ([0x18, 0x19, 0x1C] : List (BitVec 8)))
    (hrest : P ∨ wordZ w ≠ 0 → performWord w s = .next { s with status := 0x0006 })
    (h : P ∨ wordImm w ≠ 0 ∨ wordZ w ≠ 0) : performWord w s = .next { s with status := 0x0006 } := by
  have hnoImm : ∀ op ∈ ([0x18, 0x19, 0x1C] : List (BitVec 8)), ¬ OpUsesImm op ∧ op ≠ 0x1B := by decide
  obtain ⟨huse, hsetb⟩ := hnoImm _ hop
  refine (or_left_comm.mp h).elim (fun himm => ?_) hrest
  exact performWord_of_requiredZeroBroken (.inr (.inr (.inl ⟨huse, hsetb, himm⟩))) s

/-- Where a row fixes every bit, each other word of its opcode breaks R75. -/
theorem requiredZeroBroken_of_fixedRow {r : OpcodeRow} (hr : r ∈ opcodeMap) (hmask : r.mask = BitVec.allOnes 32)
    {w : Word} (hop : wordOp w = wordOp r.pattern) (hw : w ≠ r.pattern) : RequiredZeroBroken w :=
  (requiredZeroBroken_iff hr hop).mpr (by rwa [OpcodeRow.accepts, hmask, BitVec.and_allOnes, beq_iff_eq])

/-! ### SETL, GETL and ENUML (R168 to R170) -/

/-- UNREC is bit 9 (R32). -/
theorem statusWord_unrec (b : Bool) : statusWord 0#3 0#5 { unrec := b } = if b then 0x0200 else 0x0000 := by
  cases b <;> decide

section
variable {f : Field} {lt : LabelTable} (hlt : labelTable f = some lt)
include hlt

theorem exec_setl_of_mem {s : State} {e : LabelEntry} (he : e ∈ lt) (hl : s.lblIn = e.label) :
    exec (.setl f) s = .next ((s.setField f e.code).complete {}) :=
  exec_of_effect (.setl hlt (hl ▸ (labelToCode_eq_some_iff (labelTable_ok hlt)).mpr he))

theorem exec_setl_of_unknown {s : State} (hl : ∀ e ∈ lt, e.label ≠ s.lblIn) :
    exec (.setl f) s = .next { s with status := 0x0004 } :=
  exec_of_raises (.unknownLabel hlt (labelToCode_eq_none_iff.mpr hl))

theorem exec_getl_of_overflow {s : State} (hover : 2 ^ f.width ≤ (s.field f).toNat) :
    exec (.getl f) s = .next { s with status := errorStatus 3 f.index.val } := by
  rw [exec_of_readOverflow (by simp) (by simp [hlt]) (Nat.not_lt.mpr hover), raise_fieldOverflow]

/-- GETL of a code in width: the result of R166, with UNREC, bit 9, where it is UNRECOGNIZED. -/
theorem exec_getl_of_fits {s : State} {r : LabelResult} (hfit : Fits f (s.field f))
    (hr : codeToLabel lt (s.field f) = r) : exec (.getl f) s =
      .next { s with labelOut := .holds r, status := if r = .unrecognized then 0x0200 else 0x0000 } := by
  subst hr
  simp [exec_of_effect (.getl hlt hfit), State.complete, statusWord_unrec]

end

/-- Settles O41. -/
theorem setlCommand : Obligations.SetlCommand := by
  refine ⟨fun w f => (decodeCmd_eq_ok_iff_labelled (wf_setl f) rfl w).trans and_eq_or_zero_imm,
    fun w hop h s => performWord_of_noImm (by simp [hop]) (performWord_of_rejectedLabelled (by simp [hop]) · s) h,
    fun f lt s hf => ⟨fun e he hl => ?_, fun hl => ?_⟩, fun s hl => ?_⟩
  · have hlt := labelTable_eq_some_iff.mpr hf
    obtain ⟨hfield, hstatus, hframe⟩ := setField_complete_frame s f e.code
    exact ⟨_, exec_setl_of_mem hlt he hl, hfield, (labelTable_ok hlt).codesFit e he, hstatus, hframe⟩
  · exact exec_setl_of_unknown (labelTable_eq_some_iff.mpr hf) hl
  · obtain ⟨hfield, hstatus, -⟩ := setField_complete_frame s .DMV 2
    exact ⟨_, exec_setl_of_mem (f := .DMV) rfl Config.given.ok.dmv4x hl, hfield, hstatus⟩

/-- Settles O42. -/
theorem getlCommand : Obligations.GetlCommand := by
  refine ⟨fun w f => (decodeCmd_eq_ok_iff_labelled (wf_getl f) rfl w).trans and_eq_or_zero_imm,
    fun w hop h s => performWord_of_noImm (by simp [hop]) (performWord_of_rejectedLabelled (by simp [hop]) · s) h,
    fun f lt s hf => ?_⟩
  · have hlt := labelTable_eq_some_iff.mpr hf
    refine ⟨exec_getl_of_overflow hlt, fun hfit => ⟨fun e he hcode => ?_, fun hnone => ?_⟩⟩
    · exact exec_getl_of_fits hlt hfit (hcode ▸ (codeToLabel_eq_label_iff (labelTable_ok hlt)).mpr he)
    · exact exec_getl_of_fits hlt hfit (codeToLabel_eq_unrecognized_iff.mpr hnone)

/-- Settles O44. -/
theorem enumlCommand : Obligations.EnumlCommand := by
  refine ⟨fun w f k => decodeCmd_eq_ok_iff_labelled (wf_enuml f k) rfl w,
    fun w hop h s => performWord_of_rejectedLabelled (by simp [hop]) h s, fun f lt k s hf => ?_, fun f lt hf => ?_⟩
  · have hlt := labelTable_eq_some_iff.mpr hf
    exact ⟨fun h => exec_of_effect (.enuml hlt (List.getElem?_eq_getElem h)),
      fun h => exec_of_effect (.enumlEnd hlt (List.getElem?_eq_none h))⟩
  · have hlt := labelTable_eq_some_iff.mpr hf
    rw [labelTable_length hlt]
    split
    · rfl
    · next hdmv => exact pow_width_of_labelled (cls_of_labelTable hlt) hdmv

/-- Settles O45: an ENUML that ends with STATUS 0 read an entry, whose label SETL finds again. -/
theorem enumeratedLabelsAreAccepted : Obligations.EnumeratedLabelsAreAccepted := by
  intro f k s t l h hstatus hlabel
  cases exec_iff_effect.mp h with
  | raised => exact absurd hstatus (statusWord_error_ne_zero _ _)
  | enumlEnd => exact absurd hstatus statusWord_end_ne_zero
  | enuml hlt he =>
    cases hlabel
    exact ⟨_, exec_setl_of_mem hlt (List.mem_of_getElem? he) rfl, statusWord_ok, by simp⟩

/-! ### SETB and GETB (R171, R172) -/

/-- SETB's operand as a register's value and as the immediate of its word. -/
theorem ofBool_setWidth (b : Bool) : (BitVec.ofBool b).setWidth 16 = if b then 1 else 0 := by cases b <;> rfl

theorem setWidth_bit (b : Bool) : ((BitVec.ofBool b).setWidth 16).setWidth 32 = if b then 1 else 0 := by cases b <;> rfl

/-- The entry of LT_BOOL for each value (R162). -/
theorem mem_ltBool (b : Bool) :
    (⟨if b then .supported else .notSupported, (BitVec.ofBool b).setWidth 16⟩ : LabelEntry) ∈ ltBool := by
  cases b <;> decide

/-- Settles O46: the last clause by the matching entry of LT_BOOL. -/
theorem setbCommand : Obligations.SetbCommand := by
  refine ⟨fun w f b => ?_, fun w hop h s => ?_, fun f b s hb => ?_, fun f b s hb hl => ?_⟩
  · rw [decodeCmd_eq_ok_iff_bool (wf_setb f b) rfl, setWidth_bit]
    rfl
  · have hbit (himm : 2 ≤ (wordImm w).toNat) : RequiredZeroBroken w := .inr (.inr (.inr ⟨hop, himm⟩))
    exact (or_left_comm.mp h).elim (fun himm => performWord_of_requiredZeroBroken (hbit himm) s)
      (performWord_of_rejectedBool (by simp [hop]) · s)
  · exact ⟨_, exec_of_effect (.setb b hb), ofBool_setWidth b ▸ setField_complete_frame s f _⟩
  · rw [exec_setl_of_mem (labelTable_of_bool hb) (mem_ltBool b) hl, exec_of_effect (.setb b hb)]

/-- Settles O47. -/
theorem getbCommand : Obligations.GetbCommand := by
  refine ⟨fun w f => (decodeCmd_eq_ok_iff_bool (wf_getb f) rfl w).trans and_eq_or_zero_imm,
    fun w hop h s => performWord_of_noImm (by simp [hop]) (performWord_of_rejectedBool (by simp [hop]) · s) h,
    fun f s hb => ?_⟩
  have hfits : Fits f (s.field f) ↔ (s.field f).toNat < 2 := by rw [Fits, width_of_bool hb, pow_one]
  refine ⟨fun hover => ?_, fun hfit => exec_of_effect (.getb hb (hfits.mpr hfit))⟩
  rw [exec_of_readOverflow (by simp) (by simp [hb]) (hfits.not.mpr (Nat.not_lt.mpr hover)), raise_fieldOverflow]

/-! ### SETP (R173, R174) -/

/-- The six fragments a preset sets are the fields of class chroma (R26). -/
theorem forall_chroma_iff {P : Field → Prop} :
    (∀ f : Field, f.cls = .chroma → P f) ↔ P .GXH ∧ P .GY ∧ P .RX ∧ P .BX ∧ P .RY ∧ P .BY := by
  refine ⟨fun h => ⟨h _ rfl, h _ rfl, h _ rfl, h _ rfl, h _ rfl, h _ rfl⟩, fun hall f hf => ?_⟩
  obtain ⟨hGXH, hGY, hRX, hBX, hRY, hBY⟩ := hall
  revert hf
  cases f <;> simp [Field.cls, *]

/-- The state SETP of preset p leaves. -/
def State.storePreset (s : State) (p : Preset) : State := (s.applyPreset p).complete { unver := p.placeholder }

theorem exec_setp_of_mem {s : State} {p : Preset} (hp : p ∈ Config.presets) (hname : p.name = s.pnameIn) :
    exec .setp s = .next (s.storePreset p) :=
  exec_of_effect (.setp (presetNamed_eq_some_iff.mpr ⟨hp, hname⟩))

theorem State.fragments_storePreset (s : State) (p : Preset) :
    (s.storePreset p).field .GXH = p.GXH ∧ (s.storePreset p).field .GY = p.GY ∧ (s.storePreset p).field .RX = p.RX ∧
      (s.storePreset p).field .BX = p.BX ∧ (s.storePreset p).field .RY = p.RY ∧ (s.storePreset p).field .BY = p.BY := by
  simp [State.storePreset, State.applyPreset]

theorem State.field_storePreset_of_not_chroma {s : State} {p : Preset} (hp : p ∈ Config.presets) {f : Field}
    (hf : f.cls ≠ .chroma) : (s.storePreset p).field f = s.field f :=
  (field_applyPreset hp f).resolve_right fun h => hf h.1

/-- UNVER is bit 11 (R32). -/
theorem statusWord_unver (b : Bool) : statusWord 0#3 0#5 { unver := b } = if b then 0x0800 else 0x0000 := by
  cases b <;> decide

/-- Settles O48. -/
theorem setpCommand : Obligations.SetpCommand := by
  refine ⟨fun w => decodeCmd_eq_ok_iff_of_wf rfl, fun w hop hw s => ?_, fun s p hp hname => ?_, fun s hno => ?_⟩
  · have hzero := requiredZeroBroken_of_fixedRow (r := opcodeMap[15]) (List.getElem_mem _) rfl hop hw
    exact performWord_of_requiredZeroBroken hzero s
  · obtain ⟨hGXH, hGY, hRX, hBX, hRY, hBY⟩ := s.fragments_storePreset p
    exact ⟨_, exec_setp_of_mem hp hname, hGXH, hGY, hRX, hBX, hRY, hBY,
      fun f hf => State.field_storePreset_of_not_chroma hp hf, statusWord_unver p.placeholder, rfl⟩
  · exact exec_of_raises (.unknownPreset (presetNamed_eq_none_iff.mpr hno))

/-- Settles O49: the written values are a preset's, which R173 (c) and (d) constrain. -/
theorem placeholderPresetsWriteZeros : Obligations.PlaceholderPresetsWriteZeros := by
  obtain ⟨hthree, -, hfits, htwo, hzeros⟩ := Config.given.ok.presets
  refine ⟨⟨hthree, List.countP_eq_length_filter.symm.trans htwo⟩, fun s t p hp hname h => ?_⟩
  cases (exec_setp_of_mem hp hname).symm.trans h
  obtain ⟨hGXH, hGY, hRX, hBX, hRY, hBY⟩ := s.fragments_storePreset p
  have hfit : ∀ f : Field, f.cls = .chroma → Fits f ((s.storePreset p).field f) := by
    rw [forall_chroma_iff, hGXH, hGY, hRX, hBX, hRY, hBY]
    obtain ⟨fitGXH, fitGY, fitRX, fitBX, fitRY, fitBY⟩ := hfits p hp
    exact ⟨fitGXH, fitGY, fitRX, fitBX, fitRY, fitBY⟩
  have hzero (hph : p.placeholder = true) : ∀ f : Field, f.cls = .chroma → (s.storePreset p).field f = 0 := by
    rw [forall_chroma_iff, hGXH, hGY, hRX, hBX, hRY, hBY]
    exact hzeros p hp hph
  exact ⟨statusUnver_statusWord _ _ _, fun f hf => ⟨hfit f hf, fun hph => hzero hph f hf⟩⟩

end Sys2Proof.Machine
end

section
/-! PROOFS. The statements of 60_exceptions.md. A command word that leaves an error leaves what `raise` makes of the state
before it, so errors are precise; and each command raises only the errors R202 lists for it. -/

namespace Sys2Proof.Machine

/-! ### Precise errors (R203, R204) -/

/-- A command that leaves an error did nothing but raise it: every effect that completes leaves ERR 0 (R33). -/
theorem Effect.exists_raise_of_error {s t : State} {i : Instr} (h : Effect s i t) (herr : statusErr t.status ≠ 0) :
    ∃ e d, t = s.raise e d := by
  cases h with
  | raised => exact ⟨_, _, rfl⟩
  | _ => exact absurd (statusErr_statusWord ..) herr

/-- The same of a command word, which may also be rejected (R76). -/
theorem exists_raise_of_performWord_error {w : Word} {s t : State} (h : performWord w s = .next t)
    (herr : statusErr t.status ≠ 0) : ∃ e d, t = s.raise e d := by
  cases hdec : decodeCmd w with
  | error err =>
    rw [performWord_of_error hdec] at h
    cases h
    exact ⟨_, _, rfl⟩
  | ok i =>
    rw [performWord_of_ok hdec] at h
    exact (exec_iff_effect.mp h).exists_raise_of_error herr

/-- A command word ends in a next state, accepted or rejected (R204). -/
theorem performWord_answers (w : Word) (s : State) : ∃ t, performWord w s = .next t := by
  cases hdec : decodeCmd w with
  | error err => exact ⟨_, performWord_of_error hdec s⟩
  | ok i => exact performWord_of_ok hdec s ▸ exec_answers i s

/-- Settles O50: the error's state is a raise, which writes STATUS alone, with no flag. -/
theorem errorsArePrecise : Obligations.ErrorsArePrecise := by
  intro w s t h herr
  obtain ⟨e, d, rfl⟩ := exists_raise_of_performWord_error h herr
  exact ⟨rfl, statusApprox_statusWord .., statusUnrec_statusWord .., statusEnd_statusWord .., statusUnver_statusWord ..,
    fun w' => performWord_answers w' _⟩

/-! ### The errors of each command (R202) -/

/-- Every command can succeed. -/
theorem zero_mem_allowedErr (i : Instr) : 0 ∈ allowedErr i := by
  cases i <;> exact List.mem_cons_self

/-- A well-formed instruction raises only what R202 lists for its command; IllegalCommand is left to ill-formed ones. -/
theorem Raises.code_mem_allowedErr {s : State} {i : Instr} {e : ErrorKind} {d : BitVec 5} (h : Raises s i e d)
    (hwf : i.wf = true) : e.code ∈ allowedErr i := by
  cases h with
  | illFormed hno => exact absurd (hwf.symm.trans hno) Bool.true_eq_false.mp
  | decodeLength | hexdecLength | hexdecCharacter | encodeOverflow | setfOverflow | unknownLabel | unknownPreset =>
    simp [allowedErr, ErrorKind.code]
  | readOverflow hi =>
    simp only [List.mem_cons, List.not_mem_nil, or_false] at hi
    obtain rfl | rfl | rfl := hi <;> simp [allowedErr, ErrorKind.code]

/-- Settles O51: ERR is the code of what the command raises, or 0 where it completes. -/
theorem errorsByCommand : Obligations.ErrorsByCommand := by
  intro i s t hwf h
  cases exec_iff_effect.mp h with
  | raised hr => exact (statusErr_statusWord ..).symm ▸ hr.code_mem_allowedErr hwf
  | _ => exact (statusErr_statusWord ..).symm ▸ zero_mem_allowedErr _

end Sys2Proof.Machine
end

section
/-! PROOFS. The statements of 70_reset_and_hazards.md. The reset state's Field Set is in width and packs to the record 0,
so ENCODE succeeds on it; and every command word is answered. -/

namespace Sys2Proof.Machine

/-- DEFAULT_FS is what unpacking the record 0 gives, so packing gives it back (R107). -/
theorem pack_reset_fs : pack State.reset.fs = 0 := by
  have hfs : State.reset.fs = fieldSetOf (unpack 0) := by decide
  rw [hfs, pack_fieldSetOf_unpack]

/-- Settles O28: every reset value is in width, so the presented ENCODE stores the packed record. -/
theorem encodeAfterReset : Obligations.EncodeAfterReset := by
  have hstep : step (State.reset.withFetchWord 32 0x03000000) = .next State.reset.storeRecord := by
    have hdec : decodeCmd (BitVec.ofNat 32 0x03000000) = .ok .encode := (encodeCommand.1 _).mpr rfl
    rw [step_withFetchWord, performWord_of_ok hdec, exec_encode_of_inWidth inWidth_reset]
  have hrec : State.reset.storeRecord.recOut = .holds 0 := by rw [State.storeRecord_recOut, pack_reset_fs]
  exact ⟨_, hstep, hrec, State.reset.storeRecord_status, rfl⟩

/-- Settles O58: a rejected word raises IllegalCommand, and an accepted one is answered by its command (R204). -/
theorem everyCommandTerminates : Obligations.EveryCommandTerminates := performWord_answers

end Sys2Proof.Machine
end
